-- ==== Sys2Proof/Word.lean ====
section
/-! DEFINITION. The word types of the mch8 CORE (spec/10_state.md R20, R23, R27; spec/30_encoding.md R92). -/

namespace Sys2Proof

/-- An 8-bit unsigned value: a general register, a timer, a byte of memory (R20, R29, R60). -/
abbrev Byte := BitVec 8

/-- A 16-bit unsigned value: `pc`, `I`, an instruction word, a call-stack entry (R23, R27, R28, R90). -/
abbrev Word := BitVec 16

/-- The 12-bit immediate `nnn` of the NNN format (R92). -/
abbrev Addr12 := BitVec 12

/-- The name of a general register, V0 to VF; also the index of a key (R20, R31).
A name is never computed with, so it is a `Fin`, not a bit vector. -/
abbrev Reg := Fin 16

/-- The 4-bit immediate `n`, used as a row count 0 to 15 (R94). -/
abbrev Nibble := Fin 16

/-- VF, the flag output (R22). -/
abbrev VF : Reg := 15

/-- `zext_16` of a byte (R7). -/
def zext16 (b : Byte) : Word := BitVec.ofNat 16 b.toNat

/-- `zext_16` of a 12-bit immediate (R94). -/
def zextAddr (nnn : Addr12) : Word := BitVec.ofNat 16 nnn.toNat

end Sys2Proof
end

