-- ==== Sys2Proof/Config.lean ====
section
/-! DEFINITION. The parameters of the block (spec/00_scope.md R5): the fixed ones as constants, the open ones that
the spec gives a meaning to as the record `Params`, and the one free value, the random byte. -/

namespace Sys2Proof.Config

/-- `MEM_SIZE`, fixed (R5, R60). -/
def memSize : Nat := 4096

/-- `GLYPH_BYTES`, fixed (R5). -/
def glyphBytes : Nat := 80

/-- `GLYPH_STRIDE`, fixed (R5, R173). -/
def glyphStride : Nat := 5

/-- `PROG_BASE`, fixed (R5, R69). -/
def progBase : Nat := 0x200

/-- `PROG_MAX`, fixed (R5; spec/90_conflicts.md C1 chooses 3584, not 3583). -/
def progMax : Nat := 3584

/-- `RESET_PC`, fixed (R5, R23, R271). -/
def resetPc : Word := 0x200

/-- `GRID_W`, fixed (R5, R190). -/
def gridW : Nat := 64

/-- `GRID_H`, fixed (R5, R190). -/
def gridH : Nat := 32

/-- `NKEYS`, fixed (R5, R31). -/
def nKeys : Nat := 16

/-- Bytes 0 to 4 of `GLYPH_TABLE`, the glyph of digit 0: the only ones the spec fixes (R5, R276). -/
def glyphZero : List Byte := [0xF0, 0x90, 0x90, 0x90, 0xF0]

/-- The default glyphs of digits 1 to 6 (R276; PRESUMED there from general knowledge). -/
def glyphs1to6 : Vector Byte 30 :=
  #v[0x20, 0x60, 0x20, 0x20, 0x70, 0xF0, 0x10, 0xF0, 0x80, 0xF0, 0xF0, 0x10, 0xF0, 0x10, 0xF0,
     0x90, 0x90, 0xF0, 0x10, 0x10, 0xF0, 0x80, 0xF0, 0x10, 0xF0, 0xF0, 0x80, 0xF0, 0x90, 0xF0]

/-- The default glyphs of digits 7 to C (R276; PRESUMED there from general knowledge). -/
def glyphs7toC : Vector Byte 30 :=
  #v[0xF0, 0x10, 0x20, 0x40, 0x40, 0xF0, 0x90, 0xF0, 0x90, 0xF0, 0xF0, 0x90, 0xF0, 0x10, 0xF0,
     0xF0, 0x90, 0xF0, 0x90, 0x90, 0xE0, 0x90, 0xE0, 0x90, 0xE0, 0xF0, 0x80, 0x80, 0x80, 0xF0]

/-- The default glyphs of digits D to F (R276; PRESUMED there from general knowledge). -/
def glyphsDtoF : Vector Byte 15 :=
  #v[0xE0, 0x90, 0x90, 0x90, 0xE0, 0xF0, 0x80, 0xF0, 0x80, 0xF0, 0xF0, 0x80, 0xF0, 0x80, 0x80]

/-- The default of bytes 5 to 79 of `GLYPH_TABLE` (R276). -/
def glyphTailDefault : Vector Byte 75 := (glyphs1to6 ++ glyphs7toC ++ glyphsDtoF).cast rfl

/-- The open parameters of R5 that a rule depends on.
R5 makes an open parameter "an argument of the model"; `State` carries this record, no step and no event changes it,
and every statement about all states is a statement about all instances (DESIGN CHOICE, notes/assumptions/1.md). -/
structure Params where
  /-- `TIMER_DIV`, steps per timer tick (R5, R242). -/
  timerDiv : Nat
  /-- `STACK_DEPTH`; `none` is unbounded (R5, R28, R233). -/
  stackDepth : Option Nat
  /-- `SHIFT_USES_VY`; false is "`y` is ignored", true has no meaning in the spec and is refused (R5, R149, R151;
  spec/93_implementation_defined.md U3; notes/assumptions/7.md). -/
  shiftUsesVy : Bool
  /-- Bytes 5 to 79 of `GLYPH_TABLE` (R5, R276). -/
  glyphTail : Vector Byte 75
  deriving DecidableEq, Repr

/-- The defaults of R5: 9 steps per tick, an unbounded stack, shifts that ignore `y`, the font of R276. -/
def defaultParams : Params :=
  { timerDiv := 9, stackDepth := none, shiftUsesVy := false, glyphTail := glyphTailDefault }

/-- `GLYPH_TABLE[0..79]` of an instance (R276). -/
def glyphTable (p : Params) : List Byte := glyphZero ++ p.glyphTail.toList

/-- `RandomByte()`: the byte the random input presents at the n-th draw (R153, R37 (f)).
Free: it has no body, so nothing can be proved of any of its values (notes/assumptions/2.md). -/
opaque randomByte : Nat → Byte

end Sys2Proof.Config
end

