-- ==== Sys2Proof/Machine/State.lean ====
section
/-! DEFINITION. The state of the block: everything spec/10_state.md gives it (R20 to R36), each under the spec's own name, then
four fields that are the model's own (how the random input, the one-shot outputs and the open parameters are held). Plain
data. Also the reasons a step can stop, and the state after reset (R40). -/

namespace Sys2Proof.Machine

/-- Memory as (address, byte) pairs in canonical form: addresses strictly rising, none with the byte an unlisted address
reads as, all below `MEM_SIZE` (`Memory.wf`). -/
abbrev Memory := List Host.Cell

/-- The pixel grid, row-major (R34): `grid[py][px]`, true meaning on. -/
abbrev Grid := Vector (Vector Bool 64) 32

/-- The fatal conditions of R230, with the value each records (R36). -/
inductive Fatal where
  /-- Condition 1: the fetched word matches no pattern (R231). -/
  | unknownOpcode (op : Word)
  /-- Condition 2: 00EE on an empty call stack (R232). -/
  | stackUnderflow
  /-- Condition 3: 2nnn on a full call stack, only with a finite `STACK_DEPTH` (R233). -/
  | stackOverflow
  deriving DecidableEq, Repr

/-- The state of the block. -/
structure State where
  /-- General registers V0 to VF (R20). -/
  V : Vector Byte 16
  /-- Program counter (R23). -/
  pc : Word
  /-- Index register (R27). -/
  I : Word
  /-- Call stack, top first (R28). -/
  stack : List Word
  /-- Delay timer (R29). -/
  DT : Byte
  /-- Sound timer (R30). -/
  ST : Byte
  /-- Key states, true meaning pressed (R31). -/
  key : Vector Bool 16
  /-- Draw-request flag (R32). -/
  draw : Bool
  /-- Pixel grid (R34). -/
  grid : Grid
  /-- The 4096 bytes of memory (R34, R60). -/
  mem : Memory
  /-- Timer divider (R35). -/
  div : Nat
  /-- Halt latch (R36). -/
  halted : Bool
  /-- Fault record; `none` is the spec's `None` (R36). -/
  fault : Option Fatal
  /-- The model's own: how many random bytes have been drawn; the next is `Config.randomByte draws` (R153). -/
  draws : Nat
  /-- The model's own: how many times the one-shot output `cue` has been emitted (R38 (c), R243). -/
  cues : Nat
  /-- The model's own: how many times the one-shot output `diag` has been asserted (R38 (f), R236). -/
  diags : Nat
  /-- The model's own: the open parameters of this instance (R5); nothing changes them. -/
  params : Config.Params
  deriving DecidableEq, Repr

/-- Why a step stops with a fault: never. The spec's two (with a finite stack, three) fatal conditions have a described
entry (R234), so they are next states with `halted` set, and no access faults (R61, R62). Safe: there is nothing to raise. -/
inductive Fault where
  deriving DecidableEq, Repr

/-- Why a step is refused. -/
inductive Refusal where
  /-- Raised by an arm of `exec` whose instruction has no meaning yet; every arm has one, so nothing raises it. Safe. -/
  | notModelled (mnemonic : String)
  /-- Raised by 8xy6 and 8xyE in an instance with `SHIFT_USES_VY` true, which the spec treats as `refuse`: "the source does
  not say what it computes" (R5; spec/93_implementation_defined.md U3). Safe: the model stops. -/
  | shiftVariant
  deriving DecidableEq, Repr

/-- What a step answers. -/
abbrev Outcome := Host.Outcome State Fault Refusal

/-- The state right after `reset`, in an instance with the default parameters (R40, R270). -/
def State.reset : State where
  V := Vector.replicate 16 0
  pc := Config.resetPc
  I := 0
  stack := []
  DT := 0
  ST := 0
  key := Vector.replicate 16 false
  draw := false
  grid := Vector.replicate 32 (Vector.replicate 64 false)
  mem := []
  div := 0
  halted := false
  fault := none
  draws := 0
  cues := 0
  diags := 0
  params := Config.defaultParams

end Sys2Proof.Machine
end

