-- ==== Sys2Proof/Machine/Memory.lean ====
section
/-! DEFINITION. Memory in canonical form (spec/20_memory.md R60): what an unlisted address reads as, reading and writing one
byte, and the check that the form holds. Range checks stand in Machine/Ops.lean (R61, R62). -/

namespace Sys2Proof.Machine

/-- What an address that is not listed reads as: the reset contents of memory, 0x00 (R40). -/
def Memory.unlisted : Byte := 0

/-- The byte stored at an address. -/
def Memory.read : Memory → Nat → Byte
  | [], _ => Memory.unlisted
  | (k, b) :: rest, a => if k = a then b else Memory.read rest a

/-- Store a byte, keeping the canonical form: storing what an unlisted address reads as removes the entry. -/
def Memory.write : Memory → Nat → Byte → Memory
  | [], a, v => if v = Memory.unlisted then [] else [(a, v)]
  | (k, b) :: rest, a, v =>
    if a < k then (if v = Memory.unlisted then (k, b) :: rest else (a, v) :: (k, b) :: rest)
    else if a = k then (if v = Memory.unlisted then rest else (a, v) :: rest)
    else (k, b) :: Memory.write rest a v

/-- The canonical form of a list whose addresses start at `lo` or above. -/
def Memory.wfFrom (lo : Nat) : Memory → Bool
  | [] => true
  | (a, b) :: rest =>
    decide (lo ≤ a) && decide (a < Config.memSize) && decide (b ≠ Memory.unlisted) && Memory.wfFrom (a + 1) rest

/-- The canonical form. -/
def Memory.wf (m : Memory) : Bool := Memory.wfFrom 0 m

end Sys2Proof.Machine
end

