-- ==== Sys2Proof/Machine/Ops.lean ====
section
/-! DEFINITION. The named operations over the state: registers, program counter, memory with its bounds check and diagnostic
(R61, R62, R236), grid (R72), call stack (R28), timers (R241, R242), and taking a fatal condition (R234), with the only way
out of it (R235). -/

namespace Sys2Proof.Machine

namespace State

/-! ### Registers and the program counter -/

/-- `V[x]` (R8, R21). -/
def getV (s : State) (x : Reg) : Byte := s.V.get x

/-- `V[x] <- v` (R8, R21). -/
def setV (s : State) (x : Reg) (v : Byte) : State := { s with V := s.V.set x.val v x.isLt }

/-- `pc <- t` (R8). -/
def setPc (s : State) (t : Word) : State := { s with pc := t }

/-- `pc <- (pc + 2) mod 2^16`, case (a) of R24. -/
def advance (s : State) : State := s.setPc (s.pc + 2)

/-- A conditional skip: `pc + 4` when the condition holds, else `pc + 2`, both mod 2^16, case (b) of R24. -/
def skipIf (s : State) (c : Bool) : State := if c then s.setPc (s.pc + 4) else s.setPc (s.pc + 2)

/-- `I <- v` (R27). -/
def setI (s : State) (v : Word) : State := { s with I := v }

/-- `DT <- v` (R29). -/
def setDT (s : State) (v : Byte) : State := { s with DT := v }

/-- `ST <- v` (R30). -/
def setST (s : State) (v : Byte) : State := { s with ST := v }

/-- `draw <- b` (R32). -/
def setDraw (s : State) (b : Bool) : State := { s with draw := b }

/-! ### One-shot outputs -/

/-- `diag` is asserted once (R236). -/
def noteDiag (s : State) : State := { s with diags := s.diags + 1 }

/-- `diag` is asserted when the condition holds. -/
def noteDiagIf (s : State) (c : Bool) : State := if c then s.noteDiag else s

/-! ### Memory (R61, R62, R64) -/

/-- The address is outside the memory. -/
def outOfRange (a : Nat) : Bool := decide (Config.memSize ≤ a)

/-- The byte `MemRead(a, 1)` returns: the stored one, or 0x00 out of range (R61). -/
def readByte (s : State) (a : Nat) : Byte := if outOfRange a then 0 else s.mem.read a

/-- What `MemRead(a, 1)` does to the state: nothing but the diagnostic out of range (R61). -/
def noteRead (s : State) (a : Nat) : State := s.noteDiagIf (outOfRange a)

/-- `mem <- m`. -/
def setMem (s : State) (m : Memory) : State := { s with mem := m }

/-- `MemWrite(a, 1, v)`: stores in range, only asserts the diagnostic out of range (R62). -/
def writeByte (s : State) (a : Nat) (v : Byte) : State :=
  if outOfRange a then s.noteDiag else s.setMem (s.mem.write a v)

/-- Store bytes at rising addresses, each bounds-checked on its own. -/
def writeBytes (s : State) (a : Nat) : List Byte → State
  | [] => s
  | b :: rest => (s.writeByte a b).writeBytes (a + 1) rest

/-! ### The grid (R72) -/

/-- The coordinates are outside the grid. -/
def outOfGrid (px py : Nat) : Bool := decide (Config.gridW ≤ px) || decide (Config.gridH ≤ py)

/-- What `get(px, py)` returns: the pixel, or false out of range (R72). -/
def pixel (s : State) (px py : Nat) : Bool :=
  match s.grid[py]? with
  | some row => row[px]?.getD false
  | none => false

/-- What `get(px, py)` does to the state: nothing but the diagnostic out of range (R72, R236; unreachable from Dxyn). -/
def notePixel (s : State) (px py : Nat) : State := s.noteDiagIf (outOfGrid px py)

/-- `grid <- g`. -/
def setGrid (s : State) (g : Grid) : State := { s with grid := g }

/-- `set(px, py, b)`; out of range nothing is stored and the diagnostic fires (R72; unreachable from Dxyn). -/
def setPixel (s : State) (px py : Nat) (b : Bool) : State :=
  if h : px < 64 ∧ py < 32 then s.setGrid (s.grid.set py ((s.grid[py]'h.2).set px b h.1) h.2) else s.noteDiag

/-- `clear()`: every pixel off (R72, R191). -/
def clearGrid (s : State) : State := s.setGrid (Vector.replicate 32 (Vector.replicate 64 false))

/-! ### The call stack (R28) -/

/-- `stack <- l`. -/
def setStack (s : State) (l : List Word) : State := { s with stack := l }

/-- `push(stack, v)`. -/
def push (s : State) (v : Word) : State := s.setStack (v :: s.stack)

/-- The stack already holds `STACK_DEPTH` entries; never, when it is unbounded (R233). -/
def stackFull (s : State) : Bool :=
  match s.params.stackDepth with
  | none => false
  | some d => decide (d ≤ s.stack.length)

/-! ### Fatal conditions (R234, R235) -/

/-- Taking a fatal condition, the block's only exception: `halted` is set and the condition recorded; nothing else changes,
`pc` stays on the faulting word, and control goes nowhere (R234). -/
def raise (s : State) (f : Fatal) : State := { s with halted := true, fault := some f }

/-- The `reset` event, the only way out of the halted state: there is no return-from-trap (R235, R270).
Every piece of the spec's state takes its reset value; the random input goes on where it was, the counts of what has been
output stay, and the instance keeps its parameters. -/
def resetBlock (s : State) : State :=
  { State.reset with draws := s.draws, cues := s.cues, diags := s.diags, params := s.params }

/-! ### The timer unit (R241, R242) -/

/-- `emit cue` when the condition holds (R243). -/
def emitCueIf (s : State) (c : Bool) : State := if c then { s with cues := s.cues + 1 } else s

/-- A countdown timer after a tick: one less, stopping at 0 (R241). -/
def countDown (t : Byte) : Byte := if t = 0 then 0 else t - 1

/-- `Tick()`; the cue is emitted when the sound timer is decremented to exactly 1 (R241, R243). -/
def tick (s : State) : State :=
  ((s.setDT (countDown s.DT)).setST (countDown s.ST)).emitCueIf (decide (s.ST ≠ 0) && decide (countDown s.ST = 1))

/-- `div <- n`. -/
def setDiv (s : State) (n : Nat) : State := { s with div := n }

/-- `DividerAdvance()` (R242). -/
def dividerAdvance (s : State) : State :=
  if s.div + 1 = s.params.timerDiv then (s.setDiv 0).tick else s.setDiv (s.div + 1)

end State

end Sys2Proof.Machine
end

