-- ==== Sys2Proof/Machine/Flags.lean ====
section
/-! DEFINITION. The flag computations: VF is the machine's only flag, set to exactly 0 or 1 (spec/10_state.md R22, R26;
spec/41_alu.md R147 to R151), and the write-back of a flag-writing instruction (R10, R140 (d)). -/

namespace Sys2Proof.Machine

/-- A flag as the number 0 or 1 (R26). -/
def flagByte (c : Bool) : Byte := if c then 1 else 0

/-- The carry out of bit 7: the true sum exceeds 255 (R147). -/
def carryFlag (a b : Byte) : Byte := flagByte (decide (a.toNat + b.toNat > 255))

/-- Strictly greater: equal operands give 0 (R148, R150). -/
def greaterFlag (a b : Byte) : Byte := flagByte (decide (a.toNat > b.toNat))

/-- Bit 0, the bit a right shift loses (R149). -/
def lowBitFlag (a : Byte) : Byte := flagByte (a.getLsbD 0)

/-- Bit 7, the bit a left shift loses, as the number 0 or 1 (R151). -/
def highBitFlag (a : Byte) : Byte := flagByte (a.getLsbD 7)

/-- Write-back of a flag-writing arithmetic instruction: VF first, then Vx, so that with `x = 0xF` the result remains
(R10; spec/92_eei_decisions.md D5). -/
def State.writeFlagged (s : State) (x : Reg) (flag result : Byte) : State := (s.setV VF flag).setV x result

/-- The outcome of a shift whose effect with `y` ignored is `t`: that effect in every instance the spec describes, a refusal in
one with `SHIFT_USES_VY` true (R149, R151; spec/92_eei_decisions.md D17, spec/93_implementation_defined.md U3). -/
def State.shiftOutcome (s t : State) : Outcome := if s.params.shiftUsesVy then .refused .shiftVariant else .next t

end Sys2Proof.Machine
end

