-- ==== Sys2Proof/Machine/Operands.lean ====
section
/-! DEFINITION. The operand forms (spec/30_encoding.md R94, spec/42_index_memory.md R170): the effective address `I + k`, the
block of registers V0 to Vx, the key an index names, the highest key pressed, the decimal digits of a byte, the glyph address,
the random byte. Register and immediate operands are read directly. -/

namespace Sys2Proof.Machine

/-- All registers, in rising order; also all key indices. -/
def allRegs : List Reg := [0, 1, 2, 3, 4, 5, 6, 7] ++ [8, 9, 10, 11, 12, 13, 14, 15]

/-- V0 to Vx inclusive, in rising order (R175, R176). -/
def regsUpTo (x : Reg) : List Reg := allRegs.filter (fun k => decide (k.val ≤ x.val))

/-- The hundreds digit of a byte, 0 to 2 (R174). -/
def hundreds (a : Byte) : Byte := BitVec.ofNat 8 (a.toNat / 100)

/-- The tens digit of a byte, 0 to 9 (R174). -/
def tens (a : Byte) : Byte := BitVec.ofNat 8 (a.toNat / 10 % 10)

/-- The units digit of a byte, 0 to 9 (R174). -/
def units (a : Byte) : Byte := BitVec.ofNat 8 (a.toNat % 10)

/-- The address of the glyph of a digit, `a * 5`; the whole byte is multiplied, no mask (R173). -/
def glyphAddr (a : Byte) : Word := BitVec.ofNat 16 (a.toNat * Config.glyphStride)

namespace State

/-- The effective address `I + k`, a natural number that does not wrap (R63, R170 (b)). -/
def effAddr (s : State) (k : Nat) : Nat := s.I.toNat + k

/-- `KeyDown(k)`: the key's state, false for an index of 16 or more (R210 (d)). -/
def keyDown (s : State) (k : Nat) : Bool := s.key[k]?.getD false

/-- What a key test does to the state: nothing but the diagnostic for an index of 16 or more (R210 (d), R236). -/
def noteKey (s : State) (k : Nat) : State := s.noteDiagIf (decide (Config.nKeys ≤ k))

/-- The scan of Fx0A: rising order, a later hit replaces an earlier one (R213). -/
def scanKeys (s : State) : Option Reg :=
  allRegs.foldl (fun found k => if s.key.get k then some k else found) none

/-- The byte the random input presents to the next draw (R153). -/
def nextRandom (s : State) : Byte := Config.randomByte s.draws

/-- One draw is made (R153: one draw per execution). -/
def countDraw (s : State) : State := { s with draws := s.draws + 1 }

/-- `for k in 0..x: MemWrite(I + k, 1, V[k])`, the registers those of the start (R175). -/
def storeRegs (s : State) (x : Reg) : State :=
  (regsUpTo x).foldl (fun t k => t.writeByte (s.effAddr k.val) (s.getV k)) s

/-- `for k in 0..x: V[k] <- MemRead(I + k, 1)` (R176). -/
def loadRegs (s : State) (x : Reg) : State :=
  (regsUpTo x).foldl (fun t k => (t.noteRead (s.effAddr k.val)).setV k (s.readByte (s.effAddr k.val))) s

end State

end Sys2Proof.Machine
end

