-- ==== Sys2Proof/Machine/Alu.lean ====
section
/-! DEFINITION. Register loads, arithmetic, logic, shifts, random (spec/41_alu.md): 6xnn, 7xnn, 8xy0 to 8xy7, 8xyE, Cxnn.
Operands are sampled first, and every instruction advances `pc` by 2 (R140). -/

namespace Sys2Proof.Machine

/-- 6xnn LD (R141). -/
def execLdImm (x : Reg) (nn : Byte) (s : State) : Outcome := .next (s.setV x nn).advance

/-- 7xnn ADD: wraps modulo 256 and writes no flag (R142). -/
def execAddImm (x : Reg) (nn : Byte) (s : State) : Outcome := .next (s.setV x (s.getV x + nn)).advance

/-- 8xy0 LD (R143). -/
def execLdReg (x y : Reg) (s : State) : Outcome := .next (s.setV x (s.getV y)).advance

/-- 8xy1 OR (R144). -/
def execOr (x y : Reg) (s : State) : Outcome := .next (s.setV x (s.getV x ||| s.getV y)).advance

/-- 8xy2 AND (R145). -/
def execAnd (x y : Reg) (s : State) : Outcome := .next (s.setV x (s.getV x &&& s.getV y)).advance

/-- 8xy3 XOR (R146). -/
def execXor (x y : Reg) (s : State) : Outcome := .next (s.setV x (s.getV x ^^^ s.getV y)).advance

/-- 8xy4 ADD: VF is the carry (R147). -/
def execAddReg (x y : Reg) (s : State) : Outcome :=
  .next (s.writeFlagged x (carryFlag (s.getV x) (s.getV y)) (s.getV x + s.getV y)).advance

/-- 8xy5 SUB: VF is `V[x] > V[y]` (R148). -/
def execSub (x y : Reg) (s : State) : Outcome :=
  .next (s.writeFlagged x (greaterFlag (s.getV x) (s.getV y)) (s.getV x - s.getV y)).advance

/-- 8xy6 SHR: `y` is ignored; with `SHIFT_USES_VY` true it is refused (R149, R99). -/
def execShr (x : Reg) (s : State) : Outcome :=
  s.shiftOutcome (s.writeFlagged x (lowBitFlag (s.getV x)) (s.getV x >>> 1)).advance

/-- 8xy7 SUBN: VF is `V[y] > V[x]` (R150). -/
def execSubn (x y : Reg) (s : State) : Outcome :=
  .next (s.writeFlagged x (greaterFlag (s.getV y) (s.getV x)) (s.getV y - s.getV x)).advance

/-- 8xyE SHL: `y` is ignored; with `SHIFT_USES_VY` true it is refused (R151, R99). -/
def execShl (x : Reg) (s : State) : Outcome :=
  s.shiftOutcome (s.writeFlagged x (highBitFlag (s.getV x)) (s.getV x <<< 1)).advance

/-- Cxnn RND: one draw of the random input, masked (R153). -/
def execRnd (x : Reg) (nn : Byte) (s : State) : Outcome :=
  .next (s.countDraw.setV x (s.nextRandom &&& nn)).advance

end Sys2Proof.Machine
end

