-- ==== Sys2Proof/Machine/Control.lean ====
section
/-! DEFINITION. Control transfer (spec/40_control.md): 00EE, 1nnn, 2nnn, Bnnn, 3xnn, 4xnn, 5xy0, 9xy0. -/

namespace Sys2Proof.Machine

/-- 00EE RET: fatal on an empty stack, else `pc <- popped + 2` (R121). -/
def execRet (s : State) : Outcome :=
  match s.stack with
  | [] => .next (s.raise .stackUnderflow)
  | t :: rest => .next ((s.setStack rest).setPc (t + 2))

/-- 1nnn JP (R122). -/
def execJp (nnn : Addr12) (s : State) : Outcome := .next (s.setPc (zextAddr nnn))

/-- 2nnn CALL: pushes the address of the CALL itself; fatal on a full stack of finite depth (R123, R233). -/
def execCall (nnn : Addr12) (s : State) : Outcome :=
  if s.stackFull then .next (s.raise .stackOverflow) else .next ((s.push s.pc).setPc (zextAddr nnn))

/-- Bnnn JP V0: lands 2 bytes past `V[0] + nnn` (R124). -/
def execJpV0 (nnn : Addr12) (s : State) : Outcome := .next (s.setPc (zext16 (s.getV 0) + zextAddr nnn + 2))

/-- 3xnn SE (R125). -/
def execSeImm (x : Reg) (nn : Byte) (s : State) : Outcome := .next (s.skipIf (decide (s.getV x = nn)))

/-- 4xnn SNE (R126). -/
def execSneImm (x : Reg) (nn : Byte) (s : State) : Outcome := .next (s.skipIf (decide (s.getV x ≠ nn)))

/-- 5xy0 SE (R127). -/
def execSeReg (x y : Reg) (s : State) : Outcome := .next (s.skipIf (decide (s.getV x = s.getV y)))

/-- 9xy0 SNE (R128). -/
def execSneReg (x y : Reg) (s : State) : Outcome := .next (s.skipIf (decide (s.getV x ≠ s.getV y)))

end Sys2Proof.Machine
end

