-- ==== Sys2Proof/Machine/Display.lean ====
section
/-! DEFINITION. The sprite engine (spec/43_display.md): 00E0, Dxyn. -/

namespace Sys2Proof.Machine

/-- 00E0 CLS: every pixel off, `draw` set (R191). -/
def execCls (s : State) : Outcome := .next (s.clearGrid.setDraw true).advance

/-- Column `c` of a sprite row is bit `7 - c` of its byte (R193). -/
def spriteBit (b : Byte) (c : Nat) : Bool := b.getLsbD (7 - c)

/-- The grid column of sprite column `c`, wrapped (R190). -/
def spriteCol (vx : Byte) (c : Nat) : Nat := (vx.toNat + c) % Config.gridW

/-- The grid row of sprite row `r`, wrapped (R190). -/
def spriteRow (vy : Byte) (r : Nat) : Nat := (vy.toNat + r) % Config.gridH

namespace State

/-- XOR one lit sprite bit into the grid: the pixel is got, then set; one that was on goes off and VF records the collision
(R192). -/
def togglePixel (s : State) (px py : Nat) : State :=
  if s.pixel px py then ((s.notePixel px py).setPixel px py false).setV VF 1 else (s.notePixel px py).setPixel px py true

/-- Column `c` of sprite row `r`, whose byte is `b` (R192). -/
def drawBit (vx vy : Byte) (r : Nat) (b : Byte) (s : State) (c : Nat) : State :=
  if spriteBit b c then s.togglePixel (spriteCol vx c) (spriteRow vy r) else s

/-- Sprite row `r`: its byte is read, then its 8 columns are drawn (R192). -/
def drawRow (vx vy : Byte) (s : State) (r : Nat) : State :=
  (List.range 8).foldl (drawBit vx vy r (s.readByte (s.effAddr r))) (s.noteRead (s.effAddr r))

/-- The `n` rows of a sprite, at the origin `(vx, vy)` (R192). -/
def drawSprite (s : State) (vx vy : Byte) (n : Nat) : State := (List.range n).foldl (drawRow vx vy) s

end State

/-- Dxyn DRW: the coordinates are sampled before VF is reset (R192; spec/92_eei_decisions.md D5). -/
def execDrw (x y : Reg) (n : Nibble) (s : State) : Outcome :=
  .next (((s.setV VF 0).drawSprite (s.getV x) (s.getV y) n.val).setDraw true).advance

end Sys2Proof.Machine
end

