-- ==== Sys2Proof/Machine/IndexMemory.lean ====
section
/-! DEFINITION. The index register and the loads and stores through it (spec/42_index_memory.md): Annn, Fx1E, Fx29, Fx33, Fx55,
Fx65. Each advances `pc` by 2 (R170 (a)); none but the first three changes `I` (R170 (b)). -/

namespace Sys2Proof.Machine

/-- Annn LD I (R171). -/
def execLdI (nnn : Addr12) (s : State) : Outcome := .next (s.setI (zextAddr nnn)).advance

/-- Fx1E ADD I: modulo 2^16, no flag (R172). -/
def execAddI (x : Reg) (s : State) : Outcome := .next (s.setI (s.I + zext16 (s.getV x))).advance

/-- Fx29 LD F: `I <- V[x] * 5` (R173). -/
def execLdF (x : Reg) (s : State) : Outcome := .next (s.setI (glyphAddr (s.getV x))).advance

/-- Fx33 LD B: hundreds, tens and units of Vx at `I`, `I + 1`, `I + 2`, each write bounds-checked on its own (R174). -/
def execLdB (x : Reg) (s : State) : Outcome :=
  .next (s.writeBytes (s.effAddr 0) [hundreds (s.getV x), tens (s.getV x), units (s.getV x)]).advance

/-- Fx55 LD [I], Vx: V0 to Vx to memory at `I` (R175). -/
def execLdMemVx (x : Reg) (s : State) : Outcome := .next (s.storeRegs x).advance

/-- Fx65 LD Vx, [I]: memory at `I` to V0 to Vx (R176). -/
def execLdVxMem (x : Reg) (s : State) : Outcome := .next (s.loadRegs x).advance

end Sys2Proof.Machine
end

