-- ==== Sys2Proof/Machine/KeysTimers.lean ====
section
/-! DEFINITION. Key and timer instructions (spec/44_keys_timers.md): Ex9E, ExA1, Fx0A, Fx07, Fx15, Fx18. -/

namespace Sys2Proof.Machine

/-- Ex9E SKP: the whole byte Vx is the key index (R211, R210 (d)). -/
def execSkp (x : Reg) (s : State) : Outcome :=
  .next ((s.noteKey (s.getV x).toNat).skipIf (s.keyDown (s.getV x).toNat))

/-- ExA1 SKNP (R212, R210 (d)). -/
def execSknp (x : Reg) (s : State) : Outcome :=
  .next ((s.noteKey (s.getV x).toNat).skipIf (!s.keyDown (s.getV x).toNat))

/-- Fx0A LD Vx, K: with no key pressed nothing changes and the word is executed again at the next step; else Vx is the
highest key pressed (R213). -/
def execLdVxK (x : Reg) (s : State) : Outcome :=
  match s.scanKeys with
  | none => .next s
  | some k => .next (s.setV x (BitVec.ofNat 8 k.val)).advance

/-- Fx07 LD Vx, DT (R214). -/
def execLdVxDt (x : Reg) (s : State) : Outcome := .next (s.setV x s.DT).advance

/-- Fx15 LD DT, Vx (R215). -/
def execLdDtVx (x : Reg) (s : State) : Outcome := .next (s.setDT (s.getV x)).advance

/-- Fx18 LD ST, Vx: emits no cue (R216). -/
def execLdStVx (x : Reg) (s : State) : Outcome := .next (s.setST (s.getV x)).advance

end Sys2Proof.Machine
end

