-- ==== Sys2Proof/Syntax.lean ====
section
/-! DEFINITION. The instructions: one constructor per row of the opcode map (spec/30_encoding.md R97), with the operand
fields of its pattern (R92 to R94). Every field has the width the encoding gives it, so that an operand out of range cannot
be written. -/

namespace Sys2Proof

/-- The 34 instructions of R97, in the table's order; the pattern of each is its docstring. -/
inductive Instr where
  /-- `00E0` CLS (R191) -/
  | cls
  /-- `00EE` RET (R121) -/
  | ret
  /-- `1nnn` JP nnn (R122) -/
  | jp (nnn : Addr12)
  /-- `2nnn` CALL nnn (R123) -/
  | call (nnn : Addr12)
  /-- `3xnn` SE Vx, nn (R125) -/
  | seImm (x : Reg) (nn : Byte)
  /-- `4xnn` SNE Vx, nn (R126) -/
  | sneImm (x : Reg) (nn : Byte)
  /-- `5xy0` SE Vx, Vy (R127) -/
  | seReg (x y : Reg)
  /-- `6xnn` LD Vx, nn (R141) -/
  | ldImm (x : Reg) (nn : Byte)
  /-- `7xnn` ADD Vx, nn (R142) -/
  | addImm (x : Reg) (nn : Byte)
  /-- `8xy0` LD Vx, Vy (R143) -/
  | ldReg (x y : Reg)
  /-- `8xy1` OR Vx, Vy (R144) -/
  | orReg (x y : Reg)
  /-- `8xy2` AND Vx, Vy (R145) -/
  | andReg (x y : Reg)
  /-- `8xy3` XOR Vx, Vy (R146) -/
  | xorReg (x y : Reg)
  /-- `8xy4` ADD Vx, Vy (R147) -/
  | addReg (x y : Reg)
  /-- `8xy5` SUB Vx, Vy (R148) -/
  | sub (x y : Reg)
  /-- `8xy6` SHR Vx (R149); `y` is decoded and ignored (R99) -/
  | shr (x y : Reg)
  /-- `8xy7` SUBN Vx, Vy (R150) -/
  | subn (x y : Reg)
  /-- `8xyE` SHL Vx (R151); `y` is decoded and ignored (R99) -/
  | shl (x y : Reg)
  /-- `9xy0` SNE Vx, Vy (R128) -/
  | sneReg (x y : Reg)
  /-- `Annn` LD I, nnn (R171) -/
  | ldI (nnn : Addr12)
  /-- `Bnnn` JP V0, nnn (R124) -/
  | jpV0 (nnn : Addr12)
  /-- `Cxnn` RND Vx, nn (R153) -/
  | rnd (x : Reg) (nn : Byte)
  /-- `Dxyn` DRW Vx, Vy, n (R192) -/
  | drw (x y : Reg) (n : Nibble)
  /-- `Ex9E` SKP Vx (R211) -/
  | skp (x : Reg)
  /-- `ExA1` SKNP Vx (R212) -/
  | sknp (x : Reg)
  /-- `Fx07` LD Vx, DT (R214) -/
  | ldVxDt (x : Reg)
  /-- `Fx0A` LD Vx, K (R213) -/
  | ldVxK (x : Reg)
  /-- `Fx15` LD DT, Vx (R215) -/
  | ldDtVx (x : Reg)
  /-- `Fx18` LD ST, Vx (R216) -/
  | ldStVx (x : Reg)
  /-- `Fx1E` ADD I, Vx (R172) -/
  | addI (x : Reg)
  /-- `Fx29` LD F, Vx (R173) -/
  | ldF (x : Reg)
  /-- `Fx33` LD B, Vx (R174) -/
  | ldB (x : Reg)
  /-- `Fx55` LD [I], Vx (R175) -/
  | ldMemVx (x : Reg)
  /-- `Fx65` LD Vx, [I] (R176) -/
  | ldVxMem (x : Reg)
  deriving DecidableEq, Repr

end Sys2Proof
end

