-- ==== Sys2Proof/Decode.lean ====
section
/-! DEFINITION. From bits to instructions and back: fields (R92), the decoder (R95 to R98), the opcode map as a list of rows
(R97), and the encoder, which writes each pattern's digits in place (spec/30_encoding.md). -/

namespace Sys2Proof

/-! ### Fields (R92) -/

/-- `c`, the opcode class `op[15:12]`. -/
def opClass (op : Word) : Nat := op.toNat / 4096 % 16

/-- `x`, the register selector `op[11:8]`. -/
def opX (op : Word) : Reg := ⟨op.toNat / 256 % 16, Nat.mod_lt _ (by decide)⟩

/-- `y`, the register selector `op[7:4]`. -/
def opY (op : Word) : Reg := ⟨op.toNat / 16 % 16, Nat.mod_lt _ (by decide)⟩

/-- `n`, the low nibble `op[3:0]`. -/
def opN (op : Word) : Nibble := ⟨op.toNat % 16, Nat.mod_lt _ (by decide)⟩

/-- `nn`, the low byte `op[7:0]`. -/
def opNN (op : Word) : Byte := BitVec.ofNat 8 op.toNat

/-- `nnn`, the low 12 bits `op[11:0]`. -/
def opNNN (op : Word) : Addr12 := BitVec.ofNat 12 op.toNat

/-! ### The decoder -/

/-- Class 0: matched on all 16 bits (R96, R98). -/
def decodeClass0 (op : Word) : Option Instr :=
  if op.toNat = 0x00E0 then some .cls
  else if op.toNat = 0x00EE then some .ret
  else none

/-- Class 8: the sub-opcode is the low nibble (R96). -/
def decodeClass8 (op : Word) : Option Instr :=
  match (opN op).val with
  | 0x0 => some (.ldReg (opX op) (opY op))
  | 0x1 => some (.orReg (opX op) (opY op))
  | 0x2 => some (.andReg (opX op) (opY op))
  | 0x3 => some (.xorReg (opX op) (opY op))
  | 0x4 => some (.addReg (opX op) (opY op))
  | 0x5 => some (.sub (opX op) (opY op))
  | 0x6 => some (.shr (opX op) (opY op))
  | 0x7 => some (.subn (opX op) (opY op))
  | 0xE => some (.shl (opX op) (opY op))
  | _ => none

/-- Class E: the sub-opcode is the low byte (R96). -/
def decodeClassE (op : Word) : Option Instr :=
  match (opNN op).toNat with
  | 0x9E => some (.skp (opX op))
  | 0xA1 => some (.sknp (opX op))
  | _ => none

/-- Class F: the sub-opcode is the low byte (R96). -/
def decodeClassF (op : Word) : Option Instr :=
  match (opNN op).toNat with
  | 0x07 => some (.ldVxDt (opX op))
  | 0x0A => some (.ldVxK (opX op))
  | 0x15 => some (.ldDtVx (opX op))
  | 0x18 => some (.ldStVx (opX op))
  | 0x1E => some (.addI (opX op))
  | 0x29 => some (.ldF (opX op))
  | 0x33 => some (.ldB (opX op))
  | 0x55 => some (.ldMemVx (opX op))
  | 0x65 => some (.ldVxMem (opX op))
  | _ => none

/-- The instruction a word selects, or none for an undefined word (R97, R98).
The fixed low nibble of 5xy0 and 9xy0 is checked (spec/90_conflicts.md C8). -/
def decode (op : Word) : Option Instr :=
  match opClass op with
  | 0x0 => decodeClass0 op
  | 0x1 => some (.jp (opNNN op))
  | 0x2 => some (.call (opNNN op))
  | 0x3 => some (.seImm (opX op) (opNN op))
  | 0x4 => some (.sneImm (opX op) (opNN op))
  | 0x5 => if (opN op).val = 0 then some (.seReg (opX op) (opY op)) else none
  | 0x6 => some (.ldImm (opX op) (opNN op))
  | 0x7 => some (.addImm (opX op) (opNN op))
  | 0x8 => decodeClass8 op
  | 0x9 => if (opN op).val = 0 then some (.sneReg (opX op) (opY op)) else none
  | 0xA => some (.ldI (opNNN op))
  | 0xB => some (.jpV0 (opNNN op))
  | 0xC => some (.rnd (opX op) (opNN op))
  | 0xD => some (.drw (opX op) (opY op) (opN op))
  | 0xE => decodeClassE op
  | _ => decodeClassF op

/-- Why bytes are no instruction. -/
inductive Reject where
  /-- The word matches no pattern of R97 (R98, R231). -/
  | unknownOpcode (op : Word)
  /-- Fewer than the two bytes of an instruction (R90). A fetch always has two (R91), so no step meets this. -/
  | truncated
  deriving DecidableEq, Repr

/-- The instruction word of two bytes, the first the high one: `(high << 8) | low` (R65, R91). -/
def wordOfBytes (hi lo : Byte) : Word := BitVec.ofNat 16 (hi.toNat * 256 + lo.toNat)

/-- The high byte of a word, stored at the lower address (R65). -/
def highByte (op : Word) : Byte := BitVec.ofNat 8 (op.toNat / 256)

/-- The low byte of a word, stored at the higher address (R65). -/
def lowByte (op : Word) : Byte := BitVec.ofNat 8 op.toNat

/-- The decoder on a word, rejecting by name. -/
def decodeWord (op : Word) : Except Reject Instr :=
  match decode op with
  | some i => .ok i
  | none => .error (.unknownOpcode op)

/-- The decoder on any bytes: the instruction at their head and the bytes after it, or a named rejection. -/
def decodeBytes : List Byte → Except Reject (Instr × List Byte)
  | hi :: lo :: rest =>
    match decodeWord (wordOfBytes hi lo) with
    | .ok i => .ok (i, rest)
    | .error e => .error e
  | _ => .error .truncated

/-! ### The opcode map as the spec prints it (R97) -/

/-- A row of R97: a word `op` selects it when `op & mask = pattern`. -/
structure OpcodeRow where
  /-- the name `spec/opcode_table.json` gives the row -/
  mnemonic : String
  /-- the bits that are fixed -/
  mask : Word
  /-- the value of the fixed bits (R97's column `match`) -/
  pattern : Word
  deriving DecidableEq, Repr

/-- A word selects a row (R97). -/
def OpcodeRow.selects (r : OpcodeRow) (op : Word) : Bool := op &&& r.mask == r.pattern

/-- The row of R97 each instruction stands in. -/
def rowOf : Instr → OpcodeRow
  | .cls => ⟨"CLS", 0xFFFF, 0x00E0⟩
  | .ret => ⟨"RET", 0xFFFF, 0x00EE⟩
  | .jp _ => ⟨"JP", 0xF000, 0x1000⟩
  | .call _ => ⟨"CALL", 0xF000, 0x2000⟩
  | .seImm _ _ => ⟨"SE_IMM", 0xF000, 0x3000⟩
  | .sneImm _ _ => ⟨"SNE_IMM", 0xF000, 0x4000⟩
  | .seReg _ _ => ⟨"SE_REG", 0xF00F, 0x5000⟩
  | .ldImm _ _ => ⟨"LD_IMM", 0xF000, 0x6000⟩
  | .addImm _ _ => ⟨"ADD_IMM", 0xF000, 0x7000⟩
  | .ldReg _ _ => ⟨"LD_REG", 0xF00F, 0x8000⟩
  | .orReg _ _ => ⟨"OR", 0xF00F, 0x8001⟩
  | .andReg _ _ => ⟨"AND", 0xF00F, 0x8002⟩
  | .xorReg _ _ => ⟨"XOR", 0xF00F, 0x8003⟩
  | .addReg _ _ => ⟨"ADD_REG", 0xF00F, 0x8004⟩
  | .sub _ _ => ⟨"SUB", 0xF00F, 0x8005⟩
  | .shr _ _ => ⟨"SHR", 0xF00F, 0x8006⟩
  | .subn _ _ => ⟨"SUBN", 0xF00F, 0x8007⟩
  | .shl _ _ => ⟨"SHL", 0xF00F, 0x800E⟩
  | .sneReg _ _ => ⟨"SNE_REG", 0xF00F, 0x9000⟩
  | .ldI _ => ⟨"LD_I", 0xF000, 0xA000⟩
  | .jpV0 _ => ⟨"JP_V0", 0xF000, 0xB000⟩
  | .rnd _ _ => ⟨"RND", 0xF000, 0xC000⟩
  | .drw _ _ _ => ⟨"DRW", 0xF000, 0xD000⟩
  | .skp _ => ⟨"SKP", 0xF0FF, 0xE09E⟩
  | .sknp _ => ⟨"SKNP", 0xF0FF, 0xE0A1⟩
  | .ldVxDt _ => ⟨"LD_VX_DT", 0xF0FF, 0xF007⟩
  | .ldVxK _ => ⟨"LD_VX_K", 0xF0FF, 0xF00A⟩
  | .ldDtVx _ => ⟨"LD_DT_VX", 0xF0FF, 0xF015⟩
  | .ldStVx _ => ⟨"LD_ST_VX", 0xF0FF, 0xF018⟩
  | .addI _ => ⟨"ADD_I", 0xF0FF, 0xF01E⟩
  | .ldF _ => ⟨"LD_F", 0xF0FF, 0xF029⟩
  | .ldB _ => ⟨"LD_B", 0xF0FF, 0xF033⟩
  | .ldMemVx _ => ⟨"LD_MEM_VX", 0xF0FF, 0xF055⟩
  | .ldVxMem _ => ⟨"LD_VX_MEM", 0xF0FF, 0xF065⟩

/-- One instruction of each row, operands zero, in the table's order (DRW and the rest with their fields at 0). -/
def sampleInstrs : List Instr :=
  [.cls, .ret, .jp 0, .call 0, .seImm 0 0, .sneImm 0 0, .seReg 0 0, .ldImm 0 0, .addImm 0 0, .ldReg 0 0, .orReg 0 0, .andReg 0 0]
  ++ [.xorReg 0 0, .addReg 0 0, .sub 0 0, .shr 0 0, .subn 0 0, .shl 0 0, .sneReg 0 0, .ldI 0, .jpV0 0, .rnd 0 0, .drw 0 0 0]
  ++ [.skp 0, .sknp 0, .ldVxDt 0, .ldVxK 0, .ldDtVx 0, .ldStVx 0, .addI 0, .ldF 0, .ldB 0, .ldMemVx 0, .ldVxMem 0]

/-- The 34 rows of R97. -/
def opcodeRows : List OpcodeRow := sampleInstrs.map rowOf

/-! ### The encoder -/

/-- The word of class digit `c` and the low 12 bits `rest`. -/
def classWord (c rest : Nat) : Word := BitVec.ofNat 16 (c * 4096 + rest)

/-- Layout XNN: class, `x`, `nn` (R93). -/
def encodeXNN (c : Nat) (x : Reg) (nn : Byte) : Word := classWord c (x.val * 256 + nn.toNat)

/-- Layout XYN: class, `x`, `y`, low nibble (R93). -/
def encodeXYN (c : Nat) (x y : Reg) (n : Nat) : Word := classWord c (x.val * 256 + y.val * 16 + n)

/-- Layout XSS: class, `x`, sub-opcode byte (R93). -/
def encodeXSS (c : Nat) (x : Reg) (sub : Nat) : Word := classWord c (x.val * 256 + sub)

/-- The word of an instruction: the pattern of its row with the operand digits in place (R93, R97). -/
def encode : Instr → Word
  | .cls => 0x00E0
  | .ret => 0x00EE
  | .jp nnn => classWord 0x1 nnn.toNat
  | .call nnn => classWord 0x2 nnn.toNat
  | .seImm x nn => encodeXNN 0x3 x nn
  | .sneImm x nn => encodeXNN 0x4 x nn
  | .seReg x y => encodeXYN 0x5 x y 0x0
  | .ldImm x nn => encodeXNN 0x6 x nn
  | .addImm x nn => encodeXNN 0x7 x nn
  | .ldReg x y => encodeXYN 0x8 x y 0x0
  | .orReg x y => encodeXYN 0x8 x y 0x1
  | .andReg x y => encodeXYN 0x8 x y 0x2
  | .xorReg x y => encodeXYN 0x8 x y 0x3
  | .addReg x y => encodeXYN 0x8 x y 0x4
  | .sub x y => encodeXYN 0x8 x y 0x5
  | .shr x y => encodeXYN 0x8 x y 0x6
  | .subn x y => encodeXYN 0x8 x y 0x7
  | .shl x y => encodeXYN 0x8 x y 0xE
  | .sneReg x y => encodeXYN 0x9 x y 0x0
  | .ldI nnn => classWord 0xA nnn.toNat
  | .jpV0 nnn => classWord 0xB nnn.toNat
  | .rnd x nn => encodeXNN 0xC x nn
  | .drw x y n => encodeXYN 0xD x y n.val
  | .skp x => encodeXSS 0xE x 0x9E
  | .sknp x => encodeXSS 0xE x 0xA1
  | .ldVxDt x => encodeXSS 0xF x 0x07
  | .ldVxK x => encodeXSS 0xF x 0x0A
  | .ldDtVx x => encodeXSS 0xF x 0x15
  | .ldStVx x => encodeXSS 0xF x 0x18
  | .addI x => encodeXSS 0xF x 0x1E
  | .ldF x => encodeXSS 0xF x 0x29
  | .ldB x => encodeXSS 0xF x 0x33
  | .ldMemVx x => encodeXSS 0xF x 0x55
  | .ldVxMem x => encodeXSS 0xF x 0x65

/-- The two bytes of an instruction as they lie in memory, high byte first (R65). -/
def encodeBytes (i : Instr) : List Byte := [highByte (encode i), lowByte (encode i)]

/-! ### The host's numbering of a table word -/

/-- The word of an opcode-table row given as a number of `nbits` bits, bit 0 its least significant bit. -/
def tableWord (nbits w : Nat) : Word := BitVec.ofNat 16 (w % 2 ^ nbits)

/-- What the decoder reads from a table word laid out in memory. -/
def decodeTableWord (nbits w : Nat) : Option Instr :=
  match decodeBytes [highByte (tableWord nbits w), lowByte (tableWord nbits w)] with
  | .ok (i, _) => some i
  | .error _ => none

end Sys2Proof
end

