-- ==== Sys2Proof/Machine/Fetch.lean ====
section
/-! DEFINITION. What the step does around the execution of an instruction: the fetch (spec/30_encoding.md R91), the end of a
step (R95, R242), and placing a word where the next fetch finds it. -/

namespace Sys2Proof.Machine.State

/-- The word fetched: the bytes at `pc` and `pc + 1`, high byte first; `pc + 1` is not reduced (R91, R63). -/
def fetchWord (s : State) : Word := wordOfBytes (s.readByte s.pc.toNat) (s.readByte (s.pc.toNat + 1))

/-- What the fetch does to the state: the diagnostic, once for each of the two reads that is out of range (R91, R236). -/
def afterFetch (s : State) : State := (s.noteRead s.pc.toNat).noteRead (s.pc.toNat + 1)

/-- The end of a step that began running: the divider advances unless the step raised a fatal condition (R95, R242). -/
def retire (s : State) : State := if s.halted then s else s.dividerAdvance

/-- Fetch can find a word at `pc`: both its bytes are in memory. -/
def fetchable (s : State) : Bool := decide (s.pc.toNat + 1 < Config.memSize)

/-- Put a word where the next step fetches it, in a block that will fetch: not halted, and with `pc` inside memory (moved to
the entry point if it is not). -/
def placeWord (s : State) (op : Word) : State :=
  let t := { s with pc := if s.fetchable then s.pc else Config.resetPc, halted := false, fault := none }
  t.setMem ((t.mem.write t.pc.toNat (highByte op)).write (t.pc.toNat + 1) (lowByte op))

end Sys2Proof.Machine.State
end

