-- ==== Sys2Proof/Machine/Step.lean ====
section
/-! DEFINITION. The `step` event (spec/30_encoding.md R95): fetch, decode, execute, advance the divider. -/

namespace Sys2Proof.Machine

/-- What follows the execution of an instruction: nothing after a stop, else the end of the step. -/
def retireOutcome : Outcome → Outcome
  | .next t => .next t.retire
  | .fault r => .fault r
  | .refused r => .refused r

/-- One step. A halted block does nothing (R234); an undefined word is fatal at decode (R231). -/
def step (s : State) : Host.Outcome State Fault Refusal :=
  if s.halted then .next s
  else
    match decode s.fetchWord with
    | some i => retireOutcome (exec i s.afterFetch)
    | none => .next (s.afterFetch.raise (.unknownOpcode s.fetchWord))

/-- The state with a table word where the next step fetches it. -/
def State.withFetchWord (s : State) (nbits w : Nat) : State := s.placeWord (tableWord nbits w)

end Sys2Proof.Machine
end

