-- ==== Sys2Proof/WellFormed.lean ====
section
/-! DEFINITION. The checks on the data the block is given. An instruction needs none: its operand fields have exactly the
widths of the encoding and the spec puts no condition on their values (spec/30_encoding.md R94, R100), so every `Instr` is
well formed. What can be ill formed is a program image and an instance's parameters. -/

namespace Sys2Proof

/-- `load_program` accepts an image of at most `PROG_MAX` bytes (R273, R274). -/
def imageWellFormed (bytes : List Byte) : Bool := decide (bytes.length ≤ Config.progMax)

/-- The divider counts `0` to `TIMER_DIV - 1`, so `TIMER_DIV` is at least 1 (R35, R242); and the spec refuses
`SHIFT_USES_VY` true, to which it gives no meaning (R5; spec/93_implementation_defined.md U3). -/
def Config.Params.wellFormed (p : Config.Params) : Bool := decide (0 < p.timerDiv) && !p.shiftUsesVy

end Sys2Proof
end

