-- ==== Sys2Proof/Machine/Events.lean ====
section
/-! DEFINITION. The block's edge (spec/10_state.md R37, R38): the events of the host, each atomic (R39), and the outputs.
Loading a program is spec/70_reset_and_hazards.md R273, R274. -/

namespace Sys2Proof.Machine

/-- The outcome of `load_program` (R38 (g), R251). -/
inductive LoadResult where
  | ok
  | tooLarge
  deriving DecidableEq, Repr

/-- The outcome of `load_program` for an image (R273, R274). -/
def loadResult (bytes : List Byte) : LoadResult := if imageWellFormed bytes then .ok else .tooLarge

namespace State

/-- `LoadProgram(bytes)`: the glyph table at 0, then the image at 0x200; an image too large writes nothing (R273, R274). -/
def loadProgram (s : State) (bytes : List Byte) : State :=
  if imageWellFormed bytes then
    (s.writeBytes 0 (Config.glyphTable s.params)).writeBytes Config.progBase bytes
  else s

/-- `set_key(index, pressed)` (R37 (d)). -/
def pressKey (s : State) (k : Reg) (pressed : Bool) : State := { s with key := s.key.set k.val pressed k.isLt }

/-- `clear_draw` (R37 (e)). -/
def clearDraw (s : State) : State := s.setDraw false

/-- The grid as the host reads it: pixel `(px, py)` at index `py * 64 + px` (R34, R38 (a)). -/
def gridSnapshot (s : State) : List Bool :=
  (List.range (Config.gridW * Config.gridH)).map (fun k => s.pixel (k % Config.gridW) (k / Config.gridW))

/-- The step outcome as the host sees it: `none` is ok, else the fatal condition latched (R38 (d)). For a step request on an
already halted block the spec says only that it returns at once and changes nothing (R95, R234); that the latched condition is
reported again is the model's choice (DESIGN CHOICE, notes/assumptions/17.md). -/
def stepOutcome (s : State) : Option Fatal := s.fault

end State

/-- The events of the host (R37). The random input (f) is `Config.randomByte`, drawn by Cxnn. -/
inductive Event where
  /-- (a) `reset` -/
  | reset
  /-- (b) `load_program(bytes)` -/
  | loadProgram (bytes : List Byte)
  /-- (c) `step` -/
  | step
  /-- (d) `set_key(index, pressed)` -/
  | setKey (k : Reg) (pressed : Bool)
  /-- (e) `clear_draw` -/
  | clearDraw
  deriving DecidableEq, Repr

/-- One event, run to completion (R39). -/
def handle (e : Event) (s : State) : Outcome :=
  match e with
  | .reset => .next s.resetBlock
  | .loadProgram bytes => .next (s.loadProgram bytes)
  | .step => step s
  | .setKey k pressed => .next (s.pressKey k pressed)
  | .clearDraw => .next s.clearDraw

/-- A sequence of events in order, stopping at the first fault or refusal (R39). -/
def handleAll : List Event → State → Outcome
  | [], s => .next s
  | e :: rest, s =>
    match handle e s with
    | .next t => handleAll rest t
    | .fault r => .fault r
    | .refused r => .refused r

end Sys2Proof.Machine
end

