-- ==== Sys2Proof/Safety.lean ====
section
/-! DEFINITION. The terms the claims use: the invariant of a safe state, what it is to leave a part of the state unchanged,
classes of instructions, and the image of a sprite. -/

namespace Sys2Proof.Safety

open Sys2Proof.Machine

/-- What every step and every event keep. -/
structure Inv (s : State) : Prop where
  /-- Memory is in canonical form, so equal memories are equal data (notes/assumptions/4.md). -/
  memCanonical : Memory.wf s.mem = true
  /-- `pc` never exceeds 0x1100 (R25). -/
  pcBound : s.pc.toNat ≤ 0x1100
  /-- A stacked value is an address at which a 2nnn was fetched, at most 0xFFF (R121). -/
  stackBound : ∀ a ∈ s.stack, a.toNat ≤ 0xFFF
  /-- The stack never holds more than `STACK_DEPTH` entries (R233). -/
  stackDepth : ∀ d, s.params.stackDepth = some d → s.stack.length ≤ d
  /-- The divider stays in 0 to `TIMER_DIV - 1` (R35). -/
  dividerRange : s.div < s.params.timerDiv
  /-- The block is halted exactly when a fatal condition is recorded (R36). -/
  haltLatch : s.halted = s.fault.isSome
  /-- `StackOverflow` exists only with a finite `STACK_DEPTH` (R233). -/
  overflowOnlyFinite : s.fault = some .stackOverflow → s.params.stackDepth.isSome = true

/-- The parts of the state beside the general registers and `pc`. -/
inductive Part where
  | I | stack | DT | ST | key | draw | grid | mem | div | halted | fault | draws | cues | diags | params
  deriving DecidableEq, Repr

/-- The part is the same in both states; memory is compared through the read of one byte, at every address. -/
def Part.same (s t : State) : Part → Prop
  | .I => t.I = s.I
  | .stack => t.stack = s.stack
  | .DT => t.DT = s.DT
  | .ST => t.ST = s.ST
  | .key => t.key = s.key
  | .draw => t.draw = s.draw
  | .grid => t.grid = s.grid
  | .mem => ∀ a, t.readByte a = s.readByte a
  | .div => t.div = s.div
  | .halted => t.halted = s.halted
  | .fault => t.fault = s.fault
  | .draws => t.draws = s.draws
  | .cues => t.cues = s.cues
  | .diags => t.diags = s.diags
  | .params => t.params = s.params

/-- Every part but those listed is unchanged from `s` to `t`. -/
def KeepsAllBut (ps : List Part) (s t : State) : Prop := ∀ p, p ∉ ps → Part.same s t p

/-- Every general register but those listed is unchanged from `s` to `t`. -/
def KeepsRegsBut (xs : List Reg) (s t : State) : Prop := ∀ k, k ∉ xs → t.getV k = s.getV k

/-- The instructions that assign `pc` or may leave it, and so do not simply advance it (R24 cases (c) to (f)). -/
def assignsPc : Instr → Bool
  | .ret | .jp _ | .call _ | .jpV0 _ | .ldVxK _ => true
  | _ => false

/-- The conditional skips (R24 case (b)). -/
def isSkip : Instr → Bool
  | .seImm _ _ | .sneImm _ _ | .seReg _ _ | .sneReg _ _ | .skp _ | .sknp _ => true
  | _ => false

/-- The instructions that write VF as a flag (R22). -/
def writesFlag : Instr → Bool
  | .addReg _ _ | .sub _ _ | .shr _ _ | .subn _ _ | .shl _ _ | .drw _ _ _ => true
  | _ => false

/-- The register `x` an instruction writes as its destination, if it has one; for Fx65 the last one it loads (R21). -/
def destination : Instr → Option Reg
  | .ldImm x _ | .addImm x _ | .ldReg x _ | .orReg x _ | .andReg x _ | .xorReg x _ => some x
  | .addReg x _ | .sub x _ | .shr x _ | .subn x _ | .shl x _ | .rnd x _ => some x
  | .ldVxDt x | .ldVxK x | .ldVxMem x => some x
  | _ => none

/-- The wrapped image of a sprite of `n` rows at `(vx, vy)`, its bytes read at `I` and above, covers the pixel `(px, py)`:
some lit column `c` of some row `r` lands there (R190, R193). -/
def SpriteCovers (s : State) (vx vy : Byte) (n : Nat) (px py : Nat) : Prop :=
  ∃ r c, r < n ∧ c < 8 ∧ (s.readByte (s.I.toNat + r)).getLsbD (7 - c) = true ∧
    (vx.toNat + c) % 64 = px ∧ (vy.toNat + r) % 32 = py

/-- How many of the `n` addresses from `a` on are out of range: the diagnostics of `n` accesses (R236). -/
def outOfRangeCount (a n : Nat) : Nat := ((List.range n).filter (fun k => decide (4096 ≤ a + k))).length

end Sys2Proof.Safety
end

