-- ==== Sys2Proof/Certificates/Slice0/Obligations.lean ====
section
/-! DEFINITION. The statements for the provers. Results are written in the spec's own terms (natural numbers, single bits), and
each result statement says that the instruction completes, what it computes, and what it leaves unchanged. -/

open Sys2Proof Sys2Proof.Machine Sys2Proof.Safety

/-! ### Encoding (spec/30_encoding.md) -/

/-- Decoding an encoded instruction gives it back, as a word and as the first two bytes of any byte list, with every operand
at every value the encoding admits (R92 to R97, big-endian by R65). -/
def Obligations.DecodeOfEncodeIsTheInstruction : Prop :=
  ∀ (i : Instr) (rest : List Byte),
    decode (encode i) = some i ∧ decodeBytes (encodeBytes i ++ rest) = .ok (i, rest)

/-- A word that decodes is the encoding of what it decodes to, so no word has two meanings and no bit is dropped (the ignored
`y` of 8xy6 and 8xyE is kept in the syntax, R99). That no bit is dropped rests on the strict match of classes 0, 5 and 9, the
spec's decision D16 (notes/assumptions/11.md): a decoder that took 0x5121 for 5xy0 would lose a bit. -/
def Obligations.EncodeOfDecodedWordIsTheWord : Prop :=
  ∀ (w : Word) (i : Instr), decode w = some i → encode i = w

/-- The decoder follows the opcode map of R97: a word decodes exactly when it selects a row by `op & mask = match`, and then
to an instruction of a row it selects. -/
def Obligations.DecoderFollowsTheOpcodeMap : Prop :=
  (∀ w : Word, (decode w).isSome = opcodeRows.any (fun r => r.selects w)) ∧
  (∀ (w : Word) (i : Instr), decode w = some i → (rowOf i).selects w = true)

/-- The 34 rows of the opcode map are pairwise disjoint: no word selects two (section 3, R96). -/
def Obligations.NoWordSelectsTwoRows : Prop :=
  opcodeRows.length = 34 ∧
  ∀ (w : Word) (r q : OpcodeRow), r ∈ opcodeRows → q ∈ opcodeRows → r.selects w = true → q.selects w = true → r = q

/-- The undefined words are exactly those section 5 (R98) lists, class by class. `w.toNat / 4096`, `w.toNat % 256` and
`w.toNat % 16` are the class digit, the low byte and the low nibble. The strict low nibble of classes 5 and 9 and the strict
class 0 are the spec's decision D16. -/
def Obligations.UndefinedWordsAreTheListedOnes : Prop :=
  ∀ w : Word, decode w = none ↔
    (w.toNat / 4096 = 0x0 ∧ w.toNat ≠ 0x00E0 ∧ w.toNat ≠ 0x00EE) ∨
    (w.toNat / 4096 = 0x5 ∧ 1 ≤ w.toNat % 16) ∨
    (w.toNat / 4096 = 0x8 ∧ w.toNat % 16 ∈ [0x8, 0x9, 0xA, 0xB, 0xC, 0xD, 0xF]) ∨
    (w.toNat / 4096 = 0x9 ∧ 1 ≤ w.toNat % 16) ∨
    (w.toNat / 4096 = 0xE ∧ w.toNat % 256 ∉ [0x9E, 0xA1]) ∨
    (w.toNat / 4096 = 0xF ∧ w.toNat % 256 ∉ [0x07, 0x0A, 0x15, 0x18, 0x1E, 0x29, 0x33, 0x55, 0x65])

/-- A few words written out from the patterns decode to the instructions they stand for, one of each family; and 0x5121 and
0x01E0 do not decode, which is the spec's decision D16 (notes/assumptions/11.md). -/
def Obligations.SampleWordsDecodeAsWritten : Prop :=
  decode 0x00EE = some .ret ∧ decode 0x1234 = some (.jp 0x234) ∧ decode 0x3A05 = some (.seImm 0xA 0x05) ∧
  decode 0x8AB4 = some (.addReg 0xA 0xB) ∧ decode 0xC30F = some (.rnd 0x3 0x0F) ∧ decode 0xF255 = some (.ldMemVx 0x2) ∧
  decode 0xD125 = some (.drw 0x1 0x2 0x5) ∧ decode 0xE19E = some (.skp 0x1) ∧ decode 0xF315 = some (.ldDtVx 0x3) ∧
  decode 0x5121 = none ∧ decode 0x01E0 = none

/-! ### The step and the fatal conditions (spec/30_encoding.md section 3, spec/60_exceptions.md) -/

/-- A step of a running block runs the decoded instruction. When the bytes at `pc` and `pc + 1`, high byte first, decode to
`i`, and `i` executed after the fetch gives `t`, the step gives `t` with the divider advanced, or `t` itself when `t` is
halted. The fetch changes nothing but the diagnostic count, by one for each of its two reads out of range. The halt latch and the divider
are the spec's decisions D13 and D14 (notes/assumptions/6.md, 13.md). -/
def Obligations.StepRunsTheDecodedInstruction : Prop :=
  ∀ (s t : State) (i : Instr), s.halted = false →
    decodeBytes [s.readByte s.pc.toNat, s.readByte (s.pc.toNat + 1)] = .ok (i, []) →
    exec i { s with diags := s.diags + outOfRangeCount s.pc.toNat 2 } = .next t →
    step s = .next (if t.halted then t else t.dividerAdvance)

/-- An undefined word halts the block at decode: `UnknownOpcode` with the word is recorded, `pc` stays on it, the divider does
not advance, and nothing else changes but the fetch's diagnostics. The halt latch is the spec's decision D13. -/
def Obligations.UndefinedWordHaltsTheBlock : Prop :=
  ∀ (s : State) (w : Word), s.halted = false →
    w.toNat = (s.readByte s.pc.toNat).toNat * 256 + (s.readByte (s.pc.toNat + 1)).toNat → decode w = none →
    ∃ t, step s = .next t ∧ t.halted = true ∧ t.fault = some (.unknownOpcode w) ∧ t.pc = s.pc ∧
      t.diags = s.diags + outOfRangeCount s.pc.toNat 2 ∧
      KeepsRegsBut [] s t ∧ KeepsAllBut [.halted, .fault, .diags] s t

/-- A fetch from 0x1000 or above reads two zero bytes, fires the diagnostic twice and halts with `UnknownOpcode(0x0000)`
(spec/10_state.md section 2; strict class 0 is the spec's decision D16, the halt D13). -/
def Obligations.FetchAboveMemoryHalts : Prop :=
  ∀ s : State, s.halted = false → 0x1000 ≤ s.pc.toNat →
    step s = .next { s with halted := true, fault := some (.unknownOpcode 0x0000), diags := s.diags + 2 }

/-- A step of a halted block changes nothing (the spec's decision D13). -/
def Obligations.HaltedBlockIgnoresSteps : Prop := ∀ s : State, s.halted = true → step s = .next s

/-- No step stops an instance the spec describes: with `SHIFT_USES_VY` false every state has a next state, the halted ones
included. With it true, which the spec refuses (decision D17), the one stop is the refusal by name of 8xy6 and 8xyE. The model's
own claim, that it has no other refusal and no fault (notes/assumptions/6.md, 7.md). -/
def Obligations.EveryStepHasANextState : Prop :=
  ∀ s : State,
    (s.params.shiftUsesVy = false → ∃ t, step s = .next t) ∧
    (s.params.shiftUsesVy = true → (∃ t, step s = .next t) ∨
      (step s = .refused .shiftVariant ∧ ∃ x y, decode s.fetchWord = some (.shr x y) ∨ decode s.fetchWord = some (.shl x y)))

/-- Executing an instruction raises a fatal condition in two cases only: 00EE on an empty stack, and 2nnn on a full stack of
finite depth. Each is precise: only `halted` and `fault` change. (Halting is the spec's decision D13, the finite stack D15.) -/
def Obligations.OnlyReturnAndCallRaise : Prop :=
  ∀ (i : Instr) (s t : State), s.halted = false → exec i s = .next t → t.halted = true →
    (i = .ret ∧ s.stack = [] ∧ t = { s with halted := true, fault := some .stackUnderflow }) ∨
    (∃ nnn d, i = .call nnn ∧ s.params.stackDepth = some d ∧ d ≤ s.stack.length ∧
      t = { s with halted := true, fault := some .stackOverflow })

/-! ### The timer unit (spec/60_exceptions.md section 5) -/

/-- `Tick()`: each timer is decremented if it is above 0; the cue is emitted exactly when the sound timer passes to 1;
nothing else changes. That the cue looks at the value after the decrement is the spec's decision D26 (notes/assumptions/13.md). -/
def Obligations.TickDecrementsTimersAndCues : Prop :=
  ∀ s : State,
    s.tick.DT.toNat = (if s.DT.toNat > 0 then s.DT.toNat - 1 else 0) ∧
    s.tick.ST.toNat = (if s.ST.toNat > 0 then s.ST.toNat - 1 else 0) ∧
    s.tick.cues = (if s.ST.toNat > 0 ∧ s.tick.ST.toNat = 1 then s.cues + 1 else s.cues) ∧
    s.tick.pc = s.pc ∧ KeepsRegsBut [] s s.tick ∧ KeepsAllBut [.DT, .ST, .cues] s s.tick

/-- The step's end: after an instruction that raised nothing, the divider goes up by one, or back to 0 with one tick of the
timers as the instruction left them; whatever the instruction. The divider is the spec's decision D14, and the cue at a sound
timer of 2, which the tick brings to 1, its decision D26 (notes/assumptions/13.md). -/
def Obligations.CompletedStepAdvancesTheDivider : Prop :=
  ∀ (s t : State) (i : Instr), s.halted = false → decode s.fetchWord = some i → exec i s.afterFetch = .next t →
    t.halted = false →
    ∃ u, step s = .next u ∧
      (s.div + 1 = s.params.timerDiv → u = { t with
        div := 0, DT := if t.DT = 0 then 0 else t.DT - 1, ST := if t.ST = 0 then 0 else t.ST - 1,
        cues := if t.ST = 2 then t.cues + 1 else t.cues }) ∧
      (s.div + 1 ≠ s.params.timerDiv → u = { t with div := s.div + 1 })

/-- After `k` steps of a run that is not halted at its end, the divider has counted all `k` of them modulo `TIMER_DIV`, from
whatever phase it started in (the spec's decision D14). -/
def Obligations.DividerCountsEveryCompletedStep : Prop :=
  ∀ (k : Nat) (s t : State), s.div < s.params.timerDiv → Host.Core.run Sys2Proof.core k s = .next t → t.halted = false →
    t.div = (s.div + k) % s.params.timerDiv

/-- `k` ticks with nothing between them take both timers down by `k`, stopping at 0, and a sound timer of `v` cues once, at
the `(v - 1)`-th tick, when `v` is 2 or more, and never otherwise (reading of the cue: the spec's decision D26). -/
def Obligations.SoundTimerCuesOnce : Prop :=
  ∀ (k : Nat) (s : State),
    ((State.tick)^[k] s).DT.toNat = s.DT.toNat - k ∧ ((State.tick)^[k] s).ST.toNat = s.ST.toNat - k ∧
    ((State.tick)^[k] s).cues = s.cues + (if 2 ≤ s.ST.toNat ∧ s.ST.toNat - 1 ≤ k then 1 else 0)

/-- A step emits at most one cue, and only on a step at which the divider comes back to 0 and the sound timer becomes 1
(the spec's decisions D14 and D26). -/
def Obligations.CueComesOnlyWithATick : Prop :=
  ∀ s t : State, step s = .next t →
    t.cues = s.cues ∨ (t.cues = s.cues + 1 ∧ t.div = 0 ∧ t.ST = 1 ∧ s.div + 1 = s.params.timerDiv)

/-! ### Invariants -/

/-- The state after reset meets the invariant. It rests on the reset values of the stack, the divider and the halt latch, the
spec's decisions D3, D13 and D14 (notes/assumptions/5.md), and on the default parameters. -/
def Obligations.ResetMeetsTheInvariant : Prop := Inv State.reset

/-- Every step keeps the invariant: memory canonical, `pc` at most 0x1100, stacked addresses at most 0xFFF and within
`STACK_DEPTH`, the divider in range, the halt latch matching the fault record. It rests on the spec's decisions D13 (the halt),
D14 (the divider), D15 (the finite stack) and D16 (0x0000 is undefined, so a fetch above memory halts). -/
def Obligations.StepKeepsTheInvariant : Prop :=
  ∀ s t : State, Inv s → step s = .next t → Inv t

/-- Every sequence of host events (reset, load, step, key, clear) keeps the invariant and the instance's parameters. The events
are the spec's decisions D1 and D22 (notes/assumptions/16.md); the reset among them rests on the reset values of the stack, the
divider and the halt latch, its decisions D3, D13 and D14 (notes/assumptions/5.md), the step on those of StepKeepsTheInvariant. -/
def Obligations.EventsKeepTheInvariant : Prop :=
  ∀ (es : List Event) (s t : State), Inv s → handleAll es s = .next t → Inv t ∧ t.params = s.params

/-! ### Rules about the whole machine (spec/10_state.md) -/

/-- A general register changes only where an instruction names it: as its destination, as a register up to `x` in Fx65, or as
the flag VF of 8xy4, 8xy5, 8xy6, 8xy7, 8xyE and Dxyn; and those set VF to exactly 0 or 1 unless VF is also the destination
(the last write winning is the spec's decision D5). That 8xy1, 8xy2 and 8xy3 leave VF is its decision D25
(notes/assumptions/15.md). -/
def Obligations.RegistersChangeOnlyWhereNamed : Prop :=
  ∀ (i : Instr) (s t : State), exec i s = .next t →
    (∀ k, t.getV k ≠ s.getV k →
      destination i = some k ∨ (writesFlag i = true ∧ k = VF) ∨ ∃ x, i = .ldVxMem x ∧ k.val ≤ x.val) ∧
    (writesFlag i = true → destination i ≠ some VF → t.getV VF = 0 ∨ t.getV VF = 1)

/-- The program-counter law: an instruction that is no skip, jump, call, return or key wait advances `pc` by exactly 2; a skip
by exactly 2 or 4; a key wait leaves it or advances it by 2 (modulo 2^16, the spec's decision D9). -/
def Obligations.ProgramCounterLaw : Prop :=
  ∀ (i : Instr) (s t : State), exec i s = .next t →
    (assignsPc i = false → isSkip i = false → t.pc.toNat = (s.pc.toNat + 2) % 2 ^ 16) ∧
    (isSkip i = true → t.pc.toNat = (s.pc.toNat + 2) % 2 ^ 16 ∨ t.pc.toNat = (s.pc.toNat + 4) % 2 ^ 16) ∧
    (∀ x, i = .ldVxK x → t.pc = s.pc ∨ t.pc.toNat = (s.pc.toNat + 2) % 2 ^ 16)

/-- Each part of the state is written only by the instructions the spec names for it: `I` by Annn, Fx1E, Fx29; the stack by
2nnn and 00EE; `DT` by Fx15; `ST` by Fx18; `draw` and the grid by 00E0 and Dxyn; memory by Fx33 and Fx55; the draw of the
random input by Cxnn; the keys, the divider, the cue and the parameters by none. That Fx55 and Fx65 leave `I` is the spec's
decision D24 (notes/assumptions/15.md); the draw, one for each execution of Cxnn, is its decision D18, held in the model's own
counter (notes/assumptions/2.md). -/
def Obligations.PartsAreWrittenOnlyByTheirInstructions : Prop :=
  ∀ (i : Instr) (s t : State), exec i s = .next t →
    (t.I ≠ s.I → (∃ nnn, i = .ldI nnn) ∨ (∃ x, i = .addI x) ∨ (∃ x, i = .ldF x)) ∧
    (t.stack ≠ s.stack → i = .ret ∨ ∃ nnn, i = .call nnn) ∧
    (t.DT ≠ s.DT → ∃ x, i = .ldDtVx x) ∧
    (t.ST ≠ s.ST → ∃ x, i = .ldStVx x) ∧
    (t.draw ≠ s.draw ∨ t.grid ≠ s.grid → i = .cls ∨ ∃ x y n, i = .drw x y n) ∧
    ((∃ a, t.readByte a ≠ s.readByte a) → (∃ x, i = .ldB x) ∨ (∃ x, i = .ldMemVx x)) ∧
    (t.draws ≠ s.draws → ∃ x nn, i = .rnd x nn) ∧
    t.key = s.key ∧ t.div = s.div ∧ t.cues = s.cues ∧ t.params = s.params

/-- No step clears the draw-request flag or changes a key. -/
def Obligations.StepNeverClearsDrawOrMovesKeys : Prop :=
  ∀ s t : State, step s = .next t → (s.draw = true → t.draw = true) ∧ t.key = s.key

/-- No instruction reads the sound timer: with another value in it every instruction but Fx18 does exactly the same, and Fx18
overwrites it. -/
def Obligations.SoundTimerIsNeverRead : Prop :=
  ∀ (i : Instr) (s t : State) (v : Byte), exec i s = .next t →
    exec i (s.setST v) = .next (if (∃ x, i = .ldStVx x) then t else t.setST v)

/-! ### Control transfer (spec/40_control.md) -/

/-- 1nnn sets `pc` to `nnn` and Bnnn to `V[0] + nnn + 2`, which never wraps; both change nothing else. -/
def Obligations.JumpsLandOnTheirTargets : Prop :=
  ∀ (nnn : Addr12) (s : State),
    (∃ t, exec (.jp nnn) s = .next t ∧ t.pc.toNat = nnn.toNat ∧ KeepsRegsBut [] s t ∧ KeepsAllBut [] s t) ∧
    (∃ t, exec (.jpV0 nnn) s = .next t ∧ t.pc.toNat = (s.getV 0).toNat + nnn.toNat + 2 ∧ t.pc.toNat ≤ 0x1100 ∧
      KeepsRegsBut [] s t ∧ KeepsAllBut [] s t)

/-- 2nnn pushes the address of the call itself and sets `pc` to `nnn`, when the stack is unbounded or not yet full; on a full
stack of finite depth it raises `StackOverflow` and changes nothing else. The finite stack is the spec's decision D15. -/
def Obligations.CallPushesItsOwnAddress : Prop :=
  ∀ (nnn : Addr12) (s : State),
    ((∀ d, s.params.stackDepth = some d → s.stack.length < d) →
      ∃ t, exec (.call nnn) s = .next t ∧ t.pc.toNat = nnn.toNat ∧ t.stack = s.pc :: s.stack ∧
        KeepsRegsBut [] s t ∧ KeepsAllBut [.stack] s t) ∧
    (∀ d, s.params.stackDepth = some d → d ≤ s.stack.length →
      exec (.call nnn) s = .next { s with halted := true, fault := some .stackOverflow })

/-- 00EE pops the top of the stack and sets `pc` to it plus 2 (modulo 2^16); on an empty stack it raises `StackUnderflow` and
nothing else changes, `pc` staying at the RET. -/
def Obligations.ReturnPopsAndAddsTwo : Prop :=
  ∀ s : State,
    (∀ a rest, s.stack = a :: rest →
      ∃ t, exec .ret s = .next t ∧ t.pc.toNat = (a.toNat + 2) % 2 ^ 16 ∧ t.stack = rest ∧
        KeepsRegsBut [] s t ∧ KeepsAllBut [.stack] s t) ∧
    (s.stack = [] → exec .ret s = .next { s with halted := true, fault := some .stackUnderflow })

/-- A call and the matching return, with the stack as the call left it, resume at the instruction after the call with the
stack restored (which value is stacked: spec/90_conflicts.md C4). -/
def Obligations.ReturnResumesAfterTheCall : Prop :=
  ∀ (nnn : Addr12) (s t u v : State), t.halted = false → exec (.call nnn) s = .next t → u.stack = t.stack →
    exec .ret u = .next v → v.pc = s.pc + 2 ∧ v.stack = s.stack

/-- The four register skips: `pc + 4` when the condition holds, else `pc + 2`, modulo 2^16; nothing else changes. -/
def Obligations.RegisterSkipsCompare : Prop :=
  ∀ (x y : Reg) (nn : Byte) (s : State),
    (∃ t, exec (.seImm x nn) s = .next t ∧ KeepsRegsBut [] s t ∧ KeepsAllBut [] s t ∧
      t.pc.toNat = (s.pc.toNat + (if (s.getV x).toNat = nn.toNat then 4 else 2)) % 2 ^ 16) ∧
    (∃ t, exec (.sneImm x nn) s = .next t ∧ KeepsRegsBut [] s t ∧ KeepsAllBut [] s t ∧
      t.pc.toNat = (s.pc.toNat + (if (s.getV x).toNat ≠ nn.toNat then 4 else 2)) % 2 ^ 16) ∧
    (∃ t, exec (.seReg x y) s = .next t ∧ KeepsRegsBut [] s t ∧ KeepsAllBut [] s t ∧
      t.pc.toNat = (s.pc.toNat + (if (s.getV x).toNat = (s.getV y).toNat then 4 else 2)) % 2 ^ 16) ∧
    (∃ t, exec (.sneReg x y) s = .next t ∧ KeepsRegsBut [] s t ∧ KeepsAllBut [] s t ∧
      t.pc.toNat = (s.pc.toNat + (if (s.getV x).toNat ≠ (s.getV y).toNat then 4 else 2)) % 2 ^ 16)

/-! ### Arithmetic (spec/41_alu.md) -/

/-- 6xnn, 7xnn and 8xy0: the new `V[x]` is `nn`, `(V[x] + nn) mod 256`, `V[y]`; VF is written only as the destination,
`pc` advances by 2 and nothing else changes. -/
def Obligations.LoadsAndImmediateAdd : Prop :=
  ∀ (x y : Reg) (nn : Byte) (s : State),
    (∃ t, exec (.ldImm x nn) s = .next t ∧ t.getV x = nn ∧
      t.pc = s.pc + 2 ∧ KeepsRegsBut [x] s t ∧ KeepsAllBut [] s t) ∧
    (∃ t, exec (.addImm x nn) s = .next t ∧ (t.getV x).toNat = ((s.getV x).toNat + nn.toNat) % 256 ∧
      t.pc = s.pc + 2 ∧ KeepsRegsBut [x] s t ∧ KeepsAllBut [] s t) ∧
    (∃ t, exec (.ldReg x y) s = .next t ∧ t.getV x = s.getV y ∧
      t.pc = s.pc + 2 ∧ KeepsRegsBut [x] s t ∧ KeepsAllBut [] s t)

/-- 8xy1, 8xy2 and 8xy3: each bit of the new `V[x]` is the OR, AND, exclusive OR of the operands' bits; VF keeps its value
unless it is the destination, the spec's decision D25. -/
def Obligations.LogicIsBitwiseAndKeepsVF : Prop :=
  ∀ (x y : Reg) (s : State),
    (∃ t, exec (.orReg x y) s = .next t ∧
      (∀ j, (t.getV x).getLsbD j = ((s.getV x).getLsbD j || (s.getV y).getLsbD j)) ∧
      t.pc = s.pc + 2 ∧ KeepsRegsBut [x] s t ∧ KeepsAllBut [] s t) ∧
    (∃ t, exec (.andReg x y) s = .next t ∧
      (∀ j, (t.getV x).getLsbD j = ((s.getV x).getLsbD j && (s.getV y).getLsbD j)) ∧
      t.pc = s.pc + 2 ∧ KeepsRegsBut [x] s t ∧ KeepsAllBut [] s t) ∧
    (∃ t, exec (.xorReg x y) s = .next t ∧
      (∀ j, (t.getV x).getLsbD j = ((s.getV x).getLsbD j).xor ((s.getV y).getLsbD j)) ∧
      t.pc = s.pc + 2 ∧ KeepsRegsBut [x] s t ∧ KeepsAllBut [] s t)

/-- 8xy4: `V[x]` is the sum modulo 256, also when `x` is F; VF is 1 exactly when the sum exceeds 255, when `x` is not F. The
operands are those of the start also when `y` is F. The case of VF as operand is the spec's decision D5. -/
def Obligations.AddSetsCarry : Prop :=
  ∀ (x y : Reg) (s : State), ∃ t, exec (.addReg x y) s = .next t ∧
    (t.getV x).toNat = ((s.getV x).toNat + (s.getV y).toNat) % 256 ∧
    (x ≠ VF → (t.getV VF).toNat = if (s.getV x).toNat + (s.getV y).toNat > 255 then 1 else 0) ∧
    t.pc = s.pc + 2 ∧ KeepsRegsBut [x, VF] s t ∧ KeepsAllBut [] s t

/-- 8xy5 and 8xy7: the difference modulo 256 in `V[x]`, also when `x` is F; VF is 1 exactly when the minuend is strictly
greater, so 0 on equality, when `x` is not F. The case of VF as operand is the spec's decision D5. -/
def Obligations.SubtractionsSetStrictlyGreater : Prop :=
  ∀ (x y : Reg) (s : State),
    (∃ t, exec (.sub x y) s = .next t ∧
      (t.getV x).toNat = ((s.getV x).toNat + 256 - (s.getV y).toNat) % 256 ∧
      (x ≠ VF → (t.getV VF).toNat = if (s.getV x).toNat > (s.getV y).toNat then 1 else 0) ∧
      t.pc = s.pc + 2 ∧ KeepsRegsBut [x, VF] s t ∧ KeepsAllBut [] s t) ∧
    (∃ t, exec (.subn x y) s = .next t ∧
      (t.getV x).toNat = ((s.getV y).toNat + 256 - (s.getV x).toNat) % 256 ∧
      (x ≠ VF → (t.getV VF).toNat = if (s.getV y).toNat > (s.getV x).toNat then 1 else 0) ∧
      t.pc = s.pc + 2 ∧ KeepsRegsBut [x, VF] s t ∧ KeepsAllBut [] s t)

/-- 8xy6 and 8xyE: the value of `V[x]` shifted by one place, also when `x` is F; VF is the bit that leaves, as 0 or 1, when `x`
is not F; `y` is ignored whatever it is. VF as operand is the spec's decision D5, ignoring `y` its decision D17. With
`SHIFT_USES_VY` true, to which the spec gives no meaning, both are refused by name (notes/assumptions/7.md). -/
def Obligations.ShiftsLoseOneBitToVF : Prop :=
  ∀ (x y : Reg) (s : State),
    (s.params.shiftUsesVy = true → exec (.shr x y) s = .refused .shiftVariant ∧ exec (.shl x y) s = .refused .shiftVariant) ∧
    (s.params.shiftUsesVy = false → ∃ t, exec (.shr x y) s = .next t ∧ (t.getV x).toNat = (s.getV x).toNat / 2 ∧
      (x ≠ VF → (t.getV VF).toNat = (s.getV x).toNat % 2) ∧
      t.pc = s.pc + 2 ∧ KeepsRegsBut [x, VF] s t ∧ KeepsAllBut [] s t) ∧
    (s.params.shiftUsesVy = false → ∃ t, exec (.shl x y) s = .next t ∧ (t.getV x).toNat = (s.getV x).toNat * 2 % 256 ∧
      (x ≠ VF → (t.getV VF).toNat = (s.getV x).toNat / 128) ∧
      t.pc = s.pc + 2 ∧ KeepsRegsBut [x, VF] s t ∧ KeepsAllBut [] s t)

/-- Cxnn: one byte of the random input is drawn and `V[x]` is it AND `nn`, bit by bit; so 0 with `nn = 0`. Nothing is said of
the byte itself (notes/assumptions/2.md, the spec's decision D18). -/
def Obligations.RandomByteIsMasked : Prop :=
  ∀ (x : Reg) (nn : Byte) (s : State), ∃ t, exec (.rnd x nn) s = .next t ∧
    (∀ j, (t.getV x).getLsbD j = ((Config.randomByte s.draws).getLsbD j && nn.getLsbD j)) ∧
    (nn = 0 → t.getV x = 0) ∧ t.draws = s.draws + 1 ∧
    t.pc = s.pc + 2 ∧ KeepsRegsBut [x] s t ∧ KeepsAllBut [.draws] s t

/-! ### Index register and memory (spec/42_index_memory.md, spec/20_memory.md) -/

/-- Annn sets `I` to `nnn` and Fx29 to five times `V[x]`, whatever `V[x]` is; nothing else changes but `pc`. -/
def Obligations.IndexLoads : Prop :=
  ∀ (nnn : Addr12) (x : Reg) (s : State),
    (∃ t, exec (.ldI nnn) s = .next t ∧ t.I.toNat = nnn.toNat ∧
      t.pc = s.pc + 2 ∧ KeepsRegsBut [] s t ∧ KeepsAllBut [.I] s t) ∧
    (∃ t, exec (.ldF x) s = .next t ∧ t.I.toNat = (s.getV x).toNat * 5 ∧
      t.pc = s.pc + 2 ∧ KeepsRegsBut [] s t ∧ KeepsAllBut [.I] s t)

/-- Fx1E adds `V[x]` to `I` modulo 2^16 and writes no flag (the wrap is the spec's decision D10). -/
def Obligations.IndexAddWraps : Prop :=
  ∀ (x : Reg) (s : State), ∃ t, exec (.addI x) s = .next t ∧
    t.I.toNat = (s.I.toNat + (s.getV x).toNat) % 2 ^ 16 ∧
    t.pc = s.pc + 2 ∧ KeepsRegsBut [] s t ∧ KeepsAllBut [.I] s t

/-- The two memory accessors: a write in range stores its byte and a read gives the byte last stored; a write out of range
stores nothing, a read gives 0x00, and each fires the diagnostic once; no other byte changes. -/
def Obligations.MemoryAccessorsAreBoundsChecked : Prop :=
  ∀ (s : State) (a : Nat) (v : Byte), Memory.wf s.mem = true →
    (a ≤ 4095 → s.readByte a = Memory.read s.mem a ∧ s.noteRead a = s ∧
      (s.writeByte a v).readByte a = v ∧ (s.writeByte a v).diags = s.diags) ∧
    (4096 ≤ a → s.readByte a = 0x00 ∧ s.noteRead a = { s with diags := s.diags + 1 } ∧
      s.writeByte a v = { s with diags := s.diags + 1 }) ∧
    (∀ b, b ≠ a → (s.writeByte a v).readByte b = s.readByte b) ∧
    KeepsRegsBut [] s (s.writeByte a v) ∧ (s.writeByte a v).pc = s.pc ∧ KeepsAllBut [.mem, .diags] s (s.writeByte a v)

/-- Two memories in the model's canonical form that read alike at every address are equal (notes/assumptions/4.md). -/
def Obligations.CanonicalMemoriesAreEqual : Prop :=
  ∀ m n : Memory, Memory.wf m = true → Memory.wf n = true → (∀ a, Memory.read m a = Memory.read n a) → m = n

/-- Fx33 stores the hundreds, tens and units digits of `V[x]` at `I`, `I + 1`, `I + 2`, each only if its address is in range
and firing the diagnostic if not; every other byte, `I` and every register are unchanged (the sums not wrapping is the spec's
decision D11). -/
def Obligations.DecimalDigitsAreStored : Prop :=
  ∀ (x : Reg) (s : State), Memory.wf s.mem = true → ∃ t, exec (.ldB x) s = .next t ∧
    (s.effAddr 0 ≤ 4095 → (t.readByte (s.effAddr 0)).toNat = (s.getV x).toNat / 100) ∧
    (s.effAddr 1 ≤ 4095 → (t.readByte (s.effAddr 1)).toNat = (s.getV x).toNat / 10 % 10) ∧
    (s.effAddr 2 ≤ 4095 → (t.readByte (s.effAddr 2)).toNat = (s.getV x).toNat % 10) ∧
    (∀ a, a ≠ s.effAddr 0 → a ≠ s.effAddr 1 → a ≠ s.effAddr 2 → t.readByte a = s.readByte a) ∧
    s.effAddr 0 = s.I.toNat ∧ s.effAddr 1 = s.I.toNat + 1 ∧ s.effAddr 2 = s.I.toNat + 2 ∧
    t.diags = s.diags + outOfRangeCount s.I.toNat 3 ∧
    t.pc = s.pc + 2 ∧ KeepsRegsBut [] s t ∧ KeepsAllBut [.mem, .diags] s t

/-- Fx55 stores `V[k]` at `I + k` for `k` from 0 to `x`, each only in range; every other byte, every register and `I` are
unchanged (`I` unchanged is the spec's decision D24, the sums not wrapping D11). -/
def Obligations.RegistersAreStored : Prop :=
  ∀ (x : Reg) (s : State), Memory.wf s.mem = true → ∃ t, exec (.ldMemVx x) s = .next t ∧
    (∀ k : Reg, k.val ≤ x.val → s.effAddr k.val ≤ 4095 → t.readByte (s.effAddr k.val) = s.getV k) ∧
    (∀ a, (∀ k : Reg, k.val ≤ x.val → a ≠ s.effAddr k.val) → t.readByte a = s.readByte a) ∧
    (∀ k : Reg, s.effAddr k.val = s.I.toNat + k.val) ∧
    t.diags = s.diags + outOfRangeCount s.I.toNat (x.val + 1) ∧
    t.pc = s.pc + 2 ∧ KeepsRegsBut [] s t ∧ KeepsAllBut [.mem, .diags] s t

/-- Fx65 loads `V[k]` from `I + k` for `k` from 0 to `x`, 0x00 from an address out of range; registers above `x`, memory and
`I` are unchanged (`I` unchanged is the spec's decision D24, the sums not wrapping D11). -/
def Obligations.RegistersAreLoaded : Prop :=
  ∀ (x : Reg) (s : State), ∃ t, exec (.ldVxMem x) s = .next t ∧
    (∀ k : Reg, k.val ≤ x.val → t.getV k = s.readByte (s.I.toNat + k.val)) ∧
    (∀ k : Reg, x.val < k.val → t.getV k = s.getV k) ∧
    t.diags = s.diags + outOfRangeCount s.I.toNat (x.val + 1) ∧
    t.pc = s.pc + 2 ∧ KeepsAllBut [.diags] s t

/-- A store is seen by the very next fetch: when Fx55 stores at least two registers at the address after itself, the word
fetched next is `V[0]` and `V[1]` (the spec's section 8, instruction-fetch coherence; `I` and sums by D24 and D11). -/
def Obligations.StoreIsSeenByTheNextFetch : Prop :=
  ∀ (x : Reg) (s t : State), Memory.wf s.mem = true → 1 ≤ x.val → s.I = s.pc + 2 → s.I.toNat + 1 ≤ 4095 →
    exec (.ldMemVx x) s = .next t → t.fetchWord.toNat = (s.getV 0).toNat * 256 + (s.getV 1).toNat

/-! ### The sprite engine (spec/43_display.md) -/

/-- 00E0 turns every pixel off and sets `draw`, also when the grid was clear; VF and all else are unchanged. -/
def Obligations.ClearTurnsEveryPixelOff : Prop :=
  ∀ s : State, ∃ t, exec .cls s = .next t ∧ (∀ px py, t.pixel px py = false) ∧ t.draw = true ∧
    t.pc = s.pc + 2 ∧ KeepsRegsBut [] s t ∧ KeepsAllBut [.grid, .draw] s t

/-- Dxyn in one formula: every pixel is its old value XOR the wrapped sprite image at the origin sampled from `V[x]` and
`V[y]` before VF is reset; VF is 1 exactly when the image met a lit pixel, else 0, also with `n = 0`; `draw` is set; memory,
`I` and the other registers are unchanged, and each row out of range fires the diagnostic. Sampling is the spec's decision D5,
the bit order D7, the row addresses `I + r` not wrapping D11 (notes/assumptions/8.md, 12.md, 10.md). -/
def Obligations.DrawXorsTheSpriteImage : Prop :=
  ∀ (x y : Reg) (n : Nibble) (s : State), ∃ t, exec (.drw x y n) s = .next t ∧
    (∀ px py, px < 64 → py < 32 →
      (t.pixel px py = true ↔ ¬ (s.pixel px py = true ↔ SpriteCovers s (s.getV x) (s.getV y) n.val px py))) ∧
    (t.getV VF = 1 ∨ t.getV VF = 0) ∧
    (t.getV VF = 1 ↔ ∃ px py, px < 64 ∧ py < 32 ∧ s.pixel px py = true ∧
      SpriteCovers s (s.getV x) (s.getV y) n.val px py) ∧
    t.draw = true ∧ t.diags = s.diags + outOfRangeCount s.I.toNat n.val ∧
    t.pc = s.pc + 2 ∧ KeepsRegsBut [VF] s t ∧ KeepsAllBut [.grid, .draw, .diags] s t

/-- Drawing the same sprite twice at the same origin, with the same memory and `I`, restores the grid; if the first draw met
no lit pixel and the image is not empty, the second sets VF to 1. `u` is any state with the first draw's grid; its registers
may differ. Rests on the spec's decisions D5 and D7, and on D11 for the row addresses. -/
def Obligations.DrawingTwiceRestoresTheGrid : Prop :=
  ∀ (x y x' y' : Reg) (n : Nibble) (s t u v : State),
    exec (.drw x y n) s = .next t → u.grid = t.grid → (∀ a, u.readByte a = s.readByte a) → u.I = s.I →
    (u.getV x').toNat % 64 = (s.getV x).toNat % 64 → (u.getV y').toNat % 32 = (s.getV y).toNat % 32 →
    exec (.drw x' y' n) u = .next v →
    v.grid = s.grid ∧
    (t.getV VF = 0 → (∃ px py, SpriteCovers s (s.getV x) (s.getV y) n.val px py) → v.getV VF = 1)

/-! ### Keys and timers (spec/44_keys_timers.md) -/

/-- Ex9E and ExA1 skip by the level of the key the whole byte `V[x]` names; an index of 16 or more is no key: it reads as not
pressed and fires the diagnostic, the spec's decision D12. -/
def Obligations.KeySkipsTestTheLevel : Prop :=
  ∀ (x : Reg) (s : State),
    (∀ k : Reg, (s.getV x).toNat = k.val →
      (∃ t, exec (.skp x) s = .next t ∧ KeepsRegsBut [] s t ∧ KeepsAllBut [] s t ∧
        t.pc = s.pc + (if s.key.get k then 4 else 2)) ∧
      (∃ t, exec (.sknp x) s = .next t ∧ KeepsRegsBut [] s t ∧ KeepsAllBut [] s t ∧
        t.pc = s.pc + (if s.key.get k then 2 else 4))) ∧
    (16 ≤ (s.getV x).toNat →
      exec (.skp x) s = .next { s with pc := s.pc + 2, diags := s.diags + 1 } ∧
      exec (.sknp x) s = .next { s with pc := s.pc + 4, diags := s.diags + 1 })

/-- Fx0A with no key pressed completes and changes nothing, `pc` included; with a key pressed `V[x]` is the index of the
highest one and `pc` advances by 2 (the rising scan is the spec's decision D27). -/
def Obligations.KeyWaitTakesTheHighestKey : Prop :=
  ∀ (x : Reg) (s : State),
    ((∀ k : Reg, s.key.get k = false) → exec (.ldVxK x) s = .next s) ∧
    (∀ k : Reg, s.key.get k = true → (∀ j : Reg, k.val < j.val → s.key.get j = false) →
      ∃ t, exec (.ldVxK x) s = .next t ∧ (t.getV x).toNat = k.val ∧
        t.pc = s.pc + 2 ∧ KeepsRegsBut [x] s t ∧ KeepsAllBut [] s t)

/-- Fx07 copies the delay timer to `V[x]` and leaves the timer alone. -/
def Obligations.DelayTimerIsRead : Prop :=
  ∀ (x : Reg) (s : State), ∃ t, exec (.ldVxDt x) s = .next t ∧ t.getV x = s.DT ∧
    t.pc = s.pc + 2 ∧ KeepsRegsBut [x] s t ∧ KeepsAllBut [] s t

/-- Fx15 and Fx18 copy `V[x]` to the delay and to the sound timer; neither touches the divider nor emits a cue. -/
def Obligations.TimersAreWritten : Prop :=
  ∀ (x : Reg) (s : State),
    (∃ t, exec (.ldDtVx x) s = .next t ∧ t.DT = s.getV x ∧
      t.pc = s.pc + 2 ∧ KeepsRegsBut [] s t ∧ KeepsAllBut [.DT] s t) ∧
    (∃ t, exec (.ldStVx x) s = .next t ∧ t.ST = s.getV x ∧
      t.pc = s.pc + 2 ∧ KeepsRegsBut [] s t ∧ KeepsAllBut [.ST] s t)

/-! ### Reset, loading and the host's events (spec/70_reset_and_hazards.md, spec/10_state.md) -/

/-- `reset` puts every part of the spec's state at its reset value, from any state, halted or not; the instance's parameters
and the model's own counts stay. The values other than those of `pc` and memory are the spec's decisions D3, D13 and D14. -/
def Obligations.ResetGivesTheResetValues : Prop :=
  ∀ s : State, ∃ t, handle .reset s = .next t ∧
    t.pc = 0x200 ∧ (∀ a, t.readByte a = 0x00) ∧ (∀ k, t.getV k = 0) ∧ t.I = 0 ∧ t.stack = [] ∧ t.DT = 0 ∧ t.ST = 0 ∧
    (∀ k : Reg, t.key.get k = false) ∧ t.draw = false ∧ (∀ px py, t.pixel px py = false) ∧ t.div = 0 ∧
    t.halted = false ∧ t.fault = none ∧
    t.params = s.params ∧ t.draws = s.draws ∧ t.cues = s.cues ∧ t.diags = s.diags

/-- `load_program` of an image of at most 3584 bytes answers ok and stores the glyph table at 0 to 79 and the image from 0x200
on; every other byte and everything else in the block is unchanged, halted or not. That a load may come at any time, and does not
clear `halted`, is the spec's decision D22 (notes/assumptions/16.md). -/
def Obligations.LoadStoresGlyphsAndImage : Prop :=
  ∀ (bytes : List Byte) (s : State), Memory.wf s.mem = true → bytes.length ≤ 3584 →
    loadResult bytes = .ok ∧
    ∃ t, handle (.loadProgram bytes) s = .next t ∧
      (∀ k b, (Config.glyphTable s.params)[k]? = some b → t.readByte k = b) ∧
      (∀ k b, bytes[k]? = some b → t.readByte (0x200 + k) = b) ∧
      (Config.glyphTable s.params).length = 80 ∧
      (∀ a, 80 ≤ a → (a < 0x200 ∨ 0x200 + bytes.length ≤ a) → t.readByte a = s.readByte a) ∧
      t.pc = s.pc ∧ KeepsRegsBut [] s t ∧ KeepsAllBut [.mem] s t

/-- `load_program` of an image of more than 3584 bytes answers `TooLarge` and leaves the block untouched. -/
def Obligations.TooLargeImageIsRefusedWhole : Prop :=
  ∀ (bytes : List Byte) (s : State), 3584 < bytes.length →
    loadResult bytes = .tooLarge ∧ handle (.loadProgram bytes) s = .next s

/-- After reset and a load of an image, the first step runs the instruction the image's first two bytes encode and ends as every
step does: with the divider advanced, or as the instruction left it when that halted the block. Events and reset are the spec's
decisions D1 and D22 (notes/assumptions/16.md), the reset values D3, D13 and D14 (notes/assumptions/5.md), the step's end D13 and
D14 (notes/assumptions/6.md, 13.md). -/
def Obligations.LoadedProgramRunsFromItsFirstWord : Prop :=
  ∀ (i : Instr) (rest : List Byte) (s t u : State), rest.length ≤ 3582 →
    handleAll [.reset, .loadProgram (encodeBytes i ++ rest)] s = .next t → exec i t = .next u →
    handleAll [.reset, .loadProgram (encodeBytes i ++ rest), .step] s = .next (if u.halted then u else u.dividerAdvance)

/-- If the host steps a block that has been reset and not loaded, it halts with `UnknownOpcode(0x0000)` at 0x200 (the spec's
decisions D3, D13 and D16). -/
def Obligations.StepWithoutLoadHalts : Prop :=
  ∀ s : State, handleAll [.reset, .step] s =
    .next { s.resetBlock with halted := true, fault := some (.unknownOpcode 0x0000) }

/-- `set_key` sets one key and `clear_draw` clears the draw flag; neither changes anything else, in a halted block too
(events: the spec's decision D1). -/
def Obligations.KeyAndDrawEvents : Prop :=
  ∀ (k : Reg) (b : Bool) (s : State),
    (∃ t, handle (.setKey k b) s = .next t ∧ t.key.get k = b ∧ (∀ j : Reg, j ≠ k → t.key.get j = s.key.get j) ∧
      t.pc = s.pc ∧ KeepsRegsBut [] s t ∧ KeepsAllBut [.key] s t) ∧
    (∃ t, handle .clearDraw s = .next t ∧ t.draw = false ∧
      t.pc = s.pc ∧ KeepsRegsBut [] s t ∧ KeepsAllBut [.draw] s t)

/-- The host's snapshot holds all 2048 pixels, pixel `(px, py)` at index `py * 64 + px`. -/
def Obligations.SnapshotIsRowMajor : Prop :=
  ∀ s : State, s.gridSnapshot.length = 2048 ∧
    ∀ px py, px < 64 → py < 32 → s.gridSnapshot[py * 64 + px]? = some (s.pixel px py)

/-- Only `reset` leaves the halted state: no other event changes `halted`, the fault record or `pc` of a halted block (the
spec's decision D13). -/
def Obligations.OnlyResetLeavesTheHaltedState : Prop :=
  ∀ (es : List Event) (s t : State), s.halted = true → Event.reset ∉ es → handleAll es s = .next t →
    t.halted = true ∧ t.fault = s.fault ∧ t.pc = s.pc ∧ t.V = s.V ∧ t.stack = s.stack ∧ t.grid = s.grid ∧
    t.DT = s.DT ∧ t.ST = s.ST ∧ t.div = s.div

/-! ### The grid's accessors (spec/20_memory.md section 7) -/

/-- The grid's three accessors: in range `set` stores its pixel and `get` gives the pixel last stored; out of range `get` gives
false, `set` stores nothing, and each fires the diagnostic once; no other pixel changes, and `clear` turns every pixel off. The
out-of-range case, which no instruction reaches, is the one R72 gives to a model that keeps it; the diagnostic is the spec's
decision D23. -/
def Obligations.GridAccessorsAreBoundsChecked : Prop :=
  ∀ (s : State) (px py : Nat) (b : Bool),
    (px < 64 → py < 32 → s.notePixel px py = s ∧ (s.setPixel px py b).pixel px py = b ∧ (s.setPixel px py b).diags = s.diags) ∧
    (64 ≤ px ∨ 32 ≤ py → s.pixel px py = false ∧ s.notePixel px py = { s with diags := s.diags + 1 } ∧
      s.setPixel px py b = { s with diags := s.diags + 1 }) ∧
    (∀ qx qy, ¬ (qx = px ∧ qy = py) → (s.setPixel px py b).pixel qx qy = s.pixel qx qy) ∧
    KeepsRegsBut [] s (s.setPixel px py b) ∧ (s.setPixel px py b).pc = s.pc ∧
    KeepsAllBut [.grid, .diags] s (s.setPixel px py b) ∧
    (∀ qx qy, s.clearGrid.pixel qx qy = false) ∧ KeepsRegsBut [] s s.clearGrid ∧ s.clearGrid.pc = s.pc ∧
    KeepsAllBut [.grid] s s.clearGrid
end

