-- ==== Sys2Proof/Laws/Encoding.lean ====
section
/-! SUPPORT. The three masks of the opcode map (R97) as arithmetic on the word, and what they leave of an encoded word. -/

namespace Sys2Proof

/-- Mask 0xF000 keeps the class digit. -/
theorem and_mask_class (op : Word) : op &&& 0xF000 = BitVec.ofNat 16 (op.toNat / 4096 * 4096) := by
  ext i hi
  rw [BitVec.getElem_and, BitVec.getElem_eq_testBit_toNat op, BitVec.getElem_eq_testBit_toNat (BitVec.ofNat _ _)]
  interval_cases i <;> simp [Nat.testBit_eq_decide_div_mod_eq] <;> omega

/-- Mask 0xF00F keeps the class digit and the low nibble. -/
theorem and_mask_nibble (op : Word) : op &&& 0xF00F = BitVec.ofNat 16 (op.toNat / 4096 * 4096 + op.toNat % 16) := by
  ext i hi
  rw [BitVec.getElem_and, BitVec.getElem_eq_testBit_toNat op, BitVec.getElem_eq_testBit_toNat (BitVec.ofNat _ _)]
  interval_cases i <;> simp [Nat.testBit_eq_decide_div_mod_eq] <;> omega

/-- Mask 0xF0FF keeps the class digit and the low byte. -/
theorem and_mask_byte (op : Word) : op &&& 0xF0FF = BitVec.ofNat 16 (op.toNat / 4096 * 4096 + op.toNat % 256) := by
  ext i hi
  rw [BitVec.getElem_and, BitVec.getElem_eq_testBit_toNat op, BitVec.getElem_eq_testBit_toNat (BitVec.ofNat _ _)]
  interval_cases i <;> simp [Nat.testBit_eq_decide_div_mod_eq] <;> omega

theorem classWord_toNat {c rest : Nat} (hc : c < 16) (hr : rest < 4096) : (classWord c rest).toNat = c * 4096 + rest := by
  simp only [classWord, BitVec.toNat_ofNat]; omega

theorem encodeXNN_toNat {c : Nat} (hc : c < 16) (x : Reg) (nn : Byte) :
    (encodeXNN c x nn).toNat = c * 4096 + (x.val * 256 + nn.toNat) :=
  classWord_toNat hc (by omega)

theorem encodeXYN_toNat {c n : Nat} (hc : c < 16) (hn : n < 16) (x y : Reg) :
    (encodeXYN c x y n).toNat = c * 4096 + (x.val * 256 + y.val * 16 + n) :=
  classWord_toNat hc (by omega)

theorem encodeXSS_toNat {c b : Nat} (hc : c < 16) (hb : b < 256) (x : Reg) :
    (encodeXSS c x b).toNat = c * 4096 + (x.val * 256 + b) :=
  classWord_toNat hc (by omega)

theorem classWord_masked {c rest : Nat} (hc : c < 16) (hr : rest < 4096) :
    classWord c rest &&& 0xF000 = BitVec.ofNat 16 (c * 4096) := by
  rw [and_mask_class, classWord_toNat hc hr]; exact congrArg (BitVec.ofNat 16) (by omega)

theorem encodeXYN_masked {c n : Nat} (hc : c < 16) (hn : n < 16) (x y : Reg) :
    encodeXYN c x y n &&& 0xF00F = BitVec.ofNat 16 (c * 4096 + n) := by
  rw [and_mask_nibble, encodeXYN_toNat hc hn]; exact congrArg (BitVec.ofNat 16) (by omega)

theorem encodeXSS_masked {c b : Nat} (hc : c < 16) (hb : b < 256) (x : Reg) :
    encodeXSS c x b &&& 0xF0FF = BitVec.ofNat 16 (c * 4096 + b) := by
  rw [and_mask_byte, encodeXSS_toNat hc hb]; exact congrArg (BitVec.ofNat 16) (by omega)

end Sys2Proof
end

