-- ==== Sys2Proof/Laws/State.lean ====
section
/-! SUPPORT. One lemma per field per update, true by the update's definition; the conditional updates keep every field they
do not name. -/

namespace Sys2Proof.Machine.State

/-! ### setV -/

@[simp] theorem setV_V (s : State) (x : Reg) (v : Byte) : (s.setV x v).V = s.V.set x.val v x.isLt := rfl
@[simp] theorem setV_pc (s : State) (x : Reg) (v : Byte) : (s.setV x v).pc = s.pc := rfl
@[simp] theorem setV_I (s : State) (x : Reg) (v : Byte) : (s.setV x v).I = s.I := rfl
@[simp] theorem setV_stack (s : State) (x : Reg) (v : Byte) : (s.setV x v).stack = s.stack := rfl
@[simp] theorem setV_DT (s : State) (x : Reg) (v : Byte) : (s.setV x v).DT = s.DT := rfl
@[simp] theorem setV_ST (s : State) (x : Reg) (v : Byte) : (s.setV x v).ST = s.ST := rfl
@[simp] theorem setV_key (s : State) (x : Reg) (v : Byte) : (s.setV x v).key = s.key := rfl
@[simp] theorem setV_draw (s : State) (x : Reg) (v : Byte) : (s.setV x v).draw = s.draw := rfl
@[simp] theorem setV_grid (s : State) (x : Reg) (v : Byte) : (s.setV x v).grid = s.grid := rfl
@[simp] theorem setV_mem (s : State) (x : Reg) (v : Byte) : (s.setV x v).mem = s.mem := rfl
@[simp] theorem setV_div (s : State) (x : Reg) (v : Byte) : (s.setV x v).div = s.div := rfl
@[simp] theorem setV_halted (s : State) (x : Reg) (v : Byte) : (s.setV x v).halted = s.halted := rfl
@[simp] theorem setV_fault (s : State) (x : Reg) (v : Byte) : (s.setV x v).fault = s.fault := rfl
@[simp] theorem setV_draws (s : State) (x : Reg) (v : Byte) : (s.setV x v).draws = s.draws := rfl
@[simp] theorem setV_cues (s : State) (x : Reg) (v : Byte) : (s.setV x v).cues = s.cues := rfl
@[simp] theorem setV_diags (s : State) (x : Reg) (v : Byte) : (s.setV x v).diags = s.diags := rfl
@[simp] theorem setV_params (s : State) (x : Reg) (v : Byte) : (s.setV x v).params = s.params := rfl

/-! ### setPc -/

@[simp] theorem setPc_V (s : State) (w : Word) : (s.setPc w).V = s.V := rfl
@[simp] theorem setPc_pc (s : State) (w : Word) : (s.setPc w).pc = w := rfl
@[simp] theorem setPc_I (s : State) (w : Word) : (s.setPc w).I = s.I := rfl
@[simp] theorem setPc_stack (s : State) (w : Word) : (s.setPc w).stack = s.stack := rfl
@[simp] theorem setPc_DT (s : State) (w : Word) : (s.setPc w).DT = s.DT := rfl
@[simp] theorem setPc_ST (s : State) (w : Word) : (s.setPc w).ST = s.ST := rfl
@[simp] theorem setPc_key (s : State) (w : Word) : (s.setPc w).key = s.key := rfl
@[simp] theorem setPc_draw (s : State) (w : Word) : (s.setPc w).draw = s.draw := rfl
@[simp] theorem setPc_grid (s : State) (w : Word) : (s.setPc w).grid = s.grid := rfl
@[simp] theorem setPc_mem (s : State) (w : Word) : (s.setPc w).mem = s.mem := rfl
@[simp] theorem setPc_div (s : State) (w : Word) : (s.setPc w).div = s.div := rfl
@[simp] theorem setPc_halted (s : State) (w : Word) : (s.setPc w).halted = s.halted := rfl
@[simp] theorem setPc_fault (s : State) (w : Word) : (s.setPc w).fault = s.fault := rfl
@[simp] theorem setPc_draws (s : State) (w : Word) : (s.setPc w).draws = s.draws := rfl
@[simp] theorem setPc_cues (s : State) (w : Word) : (s.setPc w).cues = s.cues := rfl
@[simp] theorem setPc_diags (s : State) (w : Word) : (s.setPc w).diags = s.diags := rfl
@[simp] theorem setPc_params (s : State) (w : Word) : (s.setPc w).params = s.params := rfl

/-! ### advance -/

@[simp] theorem advance_V (s : State) : s.advance.V = s.V := rfl
@[simp] theorem advance_pc (s : State) : s.advance.pc = s.pc + 2 := rfl
@[simp] theorem advance_I (s : State) : s.advance.I = s.I := rfl
@[simp] theorem advance_stack (s : State) : s.advance.stack = s.stack := rfl
@[simp] theorem advance_DT (s : State) : s.advance.DT = s.DT := rfl
@[simp] theorem advance_ST (s : State) : s.advance.ST = s.ST := rfl
@[simp] theorem advance_key (s : State) : s.advance.key = s.key := rfl
@[simp] theorem advance_draw (s : State) : s.advance.draw = s.draw := rfl
@[simp] theorem advance_grid (s : State) : s.advance.grid = s.grid := rfl
@[simp] theorem advance_mem (s : State) : s.advance.mem = s.mem := rfl
@[simp] theorem advance_div (s : State) : s.advance.div = s.div := rfl
@[simp] theorem advance_halted (s : State) : s.advance.halted = s.halted := rfl
@[simp] theorem advance_fault (s : State) : s.advance.fault = s.fault := rfl
@[simp] theorem advance_draws (s : State) : s.advance.draws = s.draws := rfl
@[simp] theorem advance_cues (s : State) : s.advance.cues = s.cues := rfl
@[simp] theorem advance_diags (s : State) : s.advance.diags = s.diags := rfl
@[simp] theorem advance_params (s : State) : s.advance.params = s.params := rfl

/-! ### setI -/

@[simp] theorem setI_V (s : State) (w : Word) : (s.setI w).V = s.V := rfl
@[simp] theorem setI_pc (s : State) (w : Word) : (s.setI w).pc = s.pc := rfl
@[simp] theorem setI_I (s : State) (w : Word) : (s.setI w).I = w := rfl
@[simp] theorem setI_stack (s : State) (w : Word) : (s.setI w).stack = s.stack := rfl
@[simp] theorem setI_DT (s : State) (w : Word) : (s.setI w).DT = s.DT := rfl
@[simp] theorem setI_ST (s : State) (w : Word) : (s.setI w).ST = s.ST := rfl
@[simp] theorem setI_key (s : State) (w : Word) : (s.setI w).key = s.key := rfl
@[simp] theorem setI_draw (s : State) (w : Word) : (s.setI w).draw = s.draw := rfl
@[simp] theorem setI_grid (s : State) (w : Word) : (s.setI w).grid = s.grid := rfl
@[simp] theorem setI_mem (s : State) (w : Word) : (s.setI w).mem = s.mem := rfl
@[simp] theorem setI_div (s : State) (w : Word) : (s.setI w).div = s.div := rfl
@[simp] theorem setI_halted (s : State) (w : Word) : (s.setI w).halted = s.halted := rfl
@[simp] theorem setI_fault (s : State) (w : Word) : (s.setI w).fault = s.fault := rfl
@[simp] theorem setI_draws (s : State) (w : Word) : (s.setI w).draws = s.draws := rfl
@[simp] theorem setI_cues (s : State) (w : Word) : (s.setI w).cues = s.cues := rfl
@[simp] theorem setI_diags (s : State) (w : Word) : (s.setI w).diags = s.diags := rfl
@[simp] theorem setI_params (s : State) (w : Word) : (s.setI w).params = s.params := rfl

/-! ### setDT -/

@[simp] theorem setDT_V (s : State) (v : Byte) : (s.setDT v).V = s.V := rfl
@[simp] theorem setDT_pc (s : State) (v : Byte) : (s.setDT v).pc = s.pc := rfl
@[simp] theorem setDT_I (s : State) (v : Byte) : (s.setDT v).I = s.I := rfl
@[simp] theorem setDT_stack (s : State) (v : Byte) : (s.setDT v).stack = s.stack := rfl
@[simp] theorem setDT_DT (s : State) (v : Byte) : (s.setDT v).DT = v := rfl
@[simp] theorem setDT_ST (s : State) (v : Byte) : (s.setDT v).ST = s.ST := rfl
@[simp] theorem setDT_key (s : State) (v : Byte) : (s.setDT v).key = s.key := rfl
@[simp] theorem setDT_draw (s : State) (v : Byte) : (s.setDT v).draw = s.draw := rfl
@[simp] theorem setDT_grid (s : State) (v : Byte) : (s.setDT v).grid = s.grid := rfl
@[simp] theorem setDT_mem (s : State) (v : Byte) : (s.setDT v).mem = s.mem := rfl
@[simp] theorem setDT_div (s : State) (v : Byte) : (s.setDT v).div = s.div := rfl
@[simp] theorem setDT_halted (s : State) (v : Byte) : (s.setDT v).halted = s.halted := rfl
@[simp] theorem setDT_fault (s : State) (v : Byte) : (s.setDT v).fault = s.fault := rfl
@[simp] theorem setDT_draws (s : State) (v : Byte) : (s.setDT v).draws = s.draws := rfl
@[simp] theorem setDT_cues (s : State) (v : Byte) : (s.setDT v).cues = s.cues := rfl
@[simp] theorem setDT_diags (s : State) (v : Byte) : (s.setDT v).diags = s.diags := rfl
@[simp] theorem setDT_params (s : State) (v : Byte) : (s.setDT v).params = s.params := rfl

/-! ### setST -/

@[simp] theorem setST_V (s : State) (v : Byte) : (s.setST v).V = s.V := rfl
@[simp] theorem setST_pc (s : State) (v : Byte) : (s.setST v).pc = s.pc := rfl
@[simp] theorem setST_I (s : State) (v : Byte) : (s.setST v).I = s.I := rfl
@[simp] theorem setST_stack (s : State) (v : Byte) : (s.setST v).stack = s.stack := rfl
@[simp] theorem setST_DT (s : State) (v : Byte) : (s.setST v).DT = s.DT := rfl
@[simp] theorem setST_ST (s : State) (v : Byte) : (s.setST v).ST = v := rfl
@[simp] theorem setST_key (s : State) (v : Byte) : (s.setST v).key = s.key := rfl
@[simp] theorem setST_draw (s : State) (v : Byte) : (s.setST v).draw = s.draw := rfl
@[simp] theorem setST_grid (s : State) (v : Byte) : (s.setST v).grid = s.grid := rfl
@[simp] theorem setST_mem (s : State) (v : Byte) : (s.setST v).mem = s.mem := rfl
@[simp] theorem setST_div (s : State) (v : Byte) : (s.setST v).div = s.div := rfl
@[simp] theorem setST_halted (s : State) (v : Byte) : (s.setST v).halted = s.halted := rfl
@[simp] theorem setST_fault (s : State) (v : Byte) : (s.setST v).fault = s.fault := rfl
@[simp] theorem setST_draws (s : State) (v : Byte) : (s.setST v).draws = s.draws := rfl
@[simp] theorem setST_cues (s : State) (v : Byte) : (s.setST v).cues = s.cues := rfl
@[simp] theorem setST_diags (s : State) (v : Byte) : (s.setST v).diags = s.diags := rfl
@[simp] theorem setST_params (s : State) (v : Byte) : (s.setST v).params = s.params := rfl

/-! ### setDraw -/

@[simp] theorem setDraw_V (s : State) (b : Bool) : (s.setDraw b).V = s.V := rfl
@[simp] theorem setDraw_pc (s : State) (b : Bool) : (s.setDraw b).pc = s.pc := rfl
@[simp] theorem setDraw_I (s : State) (b : Bool) : (s.setDraw b).I = s.I := rfl
@[simp] theorem setDraw_stack (s : State) (b : Bool) : (s.setDraw b).stack = s.stack := rfl
@[simp] theorem setDraw_DT (s : State) (b : Bool) : (s.setDraw b).DT = s.DT := rfl
@[simp] theorem setDraw_ST (s : State) (b : Bool) : (s.setDraw b).ST = s.ST := rfl
@[simp] theorem setDraw_key (s : State) (b : Bool) : (s.setDraw b).key = s.key := rfl
@[simp] theorem setDraw_draw (s : State) (b : Bool) : (s.setDraw b).draw = b := rfl
@[simp] theorem setDraw_grid (s : State) (b : Bool) : (s.setDraw b).grid = s.grid := rfl
@[simp] theorem setDraw_mem (s : State) (b : Bool) : (s.setDraw b).mem = s.mem := rfl
@[simp] theorem setDraw_div (s : State) (b : Bool) : (s.setDraw b).div = s.div := rfl
@[simp] theorem setDraw_halted (s : State) (b : Bool) : (s.setDraw b).halted = s.halted := rfl
@[simp] theorem setDraw_fault (s : State) (b : Bool) : (s.setDraw b).fault = s.fault := rfl
@[simp] theorem setDraw_draws (s : State) (b : Bool) : (s.setDraw b).draws = s.draws := rfl
@[simp] theorem setDraw_cues (s : State) (b : Bool) : (s.setDraw b).cues = s.cues := rfl
@[simp] theorem setDraw_diags (s : State) (b : Bool) : (s.setDraw b).diags = s.diags := rfl
@[simp] theorem setDraw_params (s : State) (b : Bool) : (s.setDraw b).params = s.params := rfl

/-! ### noteDiag -/

@[simp] theorem noteDiag_V (s : State) : s.noteDiag.V = s.V := rfl
@[simp] theorem noteDiag_pc (s : State) : s.noteDiag.pc = s.pc := rfl
@[simp] theorem noteDiag_I (s : State) : s.noteDiag.I = s.I := rfl
@[simp] theorem noteDiag_stack (s : State) : s.noteDiag.stack = s.stack := rfl
@[simp] theorem noteDiag_DT (s : State) : s.noteDiag.DT = s.DT := rfl
@[simp] theorem noteDiag_ST (s : State) : s.noteDiag.ST = s.ST := rfl
@[simp] theorem noteDiag_key (s : State) : s.noteDiag.key = s.key := rfl
@[simp] theorem noteDiag_draw (s : State) : s.noteDiag.draw = s.draw := rfl
@[simp] theorem noteDiag_grid (s : State) : s.noteDiag.grid = s.grid := rfl
@[simp] theorem noteDiag_mem (s : State) : s.noteDiag.mem = s.mem := rfl
@[simp] theorem noteDiag_div (s : State) : s.noteDiag.div = s.div := rfl
@[simp] theorem noteDiag_halted (s : State) : s.noteDiag.halted = s.halted := rfl
@[simp] theorem noteDiag_fault (s : State) : s.noteDiag.fault = s.fault := rfl
@[simp] theorem noteDiag_draws (s : State) : s.noteDiag.draws = s.draws := rfl
@[simp] theorem noteDiag_cues (s : State) : s.noteDiag.cues = s.cues := rfl
@[simp] theorem noteDiag_diags (s : State) : s.noteDiag.diags = s.diags + 1 := rfl
@[simp] theorem noteDiag_params (s : State) : s.noteDiag.params = s.params := rfl

/-! ### setMem -/

@[simp] theorem setMem_V (s : State) (m : Memory) : (s.setMem m).V = s.V := rfl
@[simp] theorem setMem_pc (s : State) (m : Memory) : (s.setMem m).pc = s.pc := rfl
@[simp] theorem setMem_I (s : State) (m : Memory) : (s.setMem m).I = s.I := rfl
@[simp] theorem setMem_stack (s : State) (m : Memory) : (s.setMem m).stack = s.stack := rfl
@[simp] theorem setMem_DT (s : State) (m : Memory) : (s.setMem m).DT = s.DT := rfl
@[simp] theorem setMem_ST (s : State) (m : Memory) : (s.setMem m).ST = s.ST := rfl
@[simp] theorem setMem_key (s : State) (m : Memory) : (s.setMem m).key = s.key := rfl
@[simp] theorem setMem_draw (s : State) (m : Memory) : (s.setMem m).draw = s.draw := rfl
@[simp] theorem setMem_grid (s : State) (m : Memory) : (s.setMem m).grid = s.grid := rfl
@[simp] theorem setMem_mem (s : State) (m : Memory) : (s.setMem m).mem = m := rfl
@[simp] theorem setMem_div (s : State) (m : Memory) : (s.setMem m).div = s.div := rfl
@[simp] theorem setMem_halted (s : State) (m : Memory) : (s.setMem m).halted = s.halted := rfl
@[simp] theorem setMem_fault (s : State) (m : Memory) : (s.setMem m).fault = s.fault := rfl
@[simp] theorem setMem_draws (s : State) (m : Memory) : (s.setMem m).draws = s.draws := rfl
@[simp] theorem setMem_cues (s : State) (m : Memory) : (s.setMem m).cues = s.cues := rfl
@[simp] theorem setMem_diags (s : State) (m : Memory) : (s.setMem m).diags = s.diags := rfl
@[simp] theorem setMem_params (s : State) (m : Memory) : (s.setMem m).params = s.params := rfl

/-! ### setGrid -/

@[simp] theorem setGrid_V (s : State) (g : Grid) : (s.setGrid g).V = s.V := rfl
@[simp] theorem setGrid_pc (s : State) (g : Grid) : (s.setGrid g).pc = s.pc := rfl
@[simp] theorem setGrid_I (s : State) (g : Grid) : (s.setGrid g).I = s.I := rfl
@[simp] theorem setGrid_stack (s : State) (g : Grid) : (s.setGrid g).stack = s.stack := rfl
@[simp] theorem setGrid_DT (s : State) (g : Grid) : (s.setGrid g).DT = s.DT := rfl
@[simp] theorem setGrid_ST (s : State) (g : Grid) : (s.setGrid g).ST = s.ST := rfl
@[simp] theorem setGrid_key (s : State) (g : Grid) : (s.setGrid g).key = s.key := rfl
@[simp] theorem setGrid_draw (s : State) (g : Grid) : (s.setGrid g).draw = s.draw := rfl
@[simp] theorem setGrid_grid (s : State) (g : Grid) : (s.setGrid g).grid = g := rfl
@[simp] theorem setGrid_mem (s : State) (g : Grid) : (s.setGrid g).mem = s.mem := rfl
@[simp] theorem setGrid_div (s : State) (g : Grid) : (s.setGrid g).div = s.div := rfl
@[simp] theorem setGrid_halted (s : State) (g : Grid) : (s.setGrid g).halted = s.halted := rfl
@[simp] theorem setGrid_fault (s : State) (g : Grid) : (s.setGrid g).fault = s.fault := rfl
@[simp] theorem setGrid_draws (s : State) (g : Grid) : (s.setGrid g).draws = s.draws := rfl
@[simp] theorem setGrid_cues (s : State) (g : Grid) : (s.setGrid g).cues = s.cues := rfl
@[simp] theorem setGrid_diags (s : State) (g : Grid) : (s.setGrid g).diags = s.diags := rfl
@[simp] theorem setGrid_params (s : State) (g : Grid) : (s.setGrid g).params = s.params := rfl

/-! ### clearGrid -/

@[simp] theorem clearGrid_V (s : State) : s.clearGrid.V = s.V := rfl
@[simp] theorem clearGrid_pc (s : State) : s.clearGrid.pc = s.pc := rfl
@[simp] theorem clearGrid_I (s : State) : s.clearGrid.I = s.I := rfl
@[simp] theorem clearGrid_stack (s : State) : s.clearGrid.stack = s.stack := rfl
@[simp] theorem clearGrid_DT (s : State) : s.clearGrid.DT = s.DT := rfl
@[simp] theorem clearGrid_ST (s : State) : s.clearGrid.ST = s.ST := rfl
@[simp] theorem clearGrid_key (s : State) : s.clearGrid.key = s.key := rfl
@[simp] theorem clearGrid_draw (s : State) : s.clearGrid.draw = s.draw := rfl
@[simp] theorem clearGrid_grid (s : State) : s.clearGrid.grid = Vector.replicate 32 (Vector.replicate 64 false) := rfl
@[simp] theorem clearGrid_mem (s : State) : s.clearGrid.mem = s.mem := rfl
@[simp] theorem clearGrid_div (s : State) : s.clearGrid.div = s.div := rfl
@[simp] theorem clearGrid_halted (s : State) : s.clearGrid.halted = s.halted := rfl
@[simp] theorem clearGrid_fault (s : State) : s.clearGrid.fault = s.fault := rfl
@[simp] theorem clearGrid_draws (s : State) : s.clearGrid.draws = s.draws := rfl
@[simp] theorem clearGrid_cues (s : State) : s.clearGrid.cues = s.cues := rfl
@[simp] theorem clearGrid_diags (s : State) : s.clearGrid.diags = s.diags := rfl
@[simp] theorem clearGrid_params (s : State) : s.clearGrid.params = s.params := rfl

/-! ### setStack -/

@[simp] theorem setStack_V (s : State) (l : List Word) : (s.setStack l).V = s.V := rfl
@[simp] theorem setStack_pc (s : State) (l : List Word) : (s.setStack l).pc = s.pc := rfl
@[simp] theorem setStack_I (s : State) (l : List Word) : (s.setStack l).I = s.I := rfl
@[simp] theorem setStack_stack (s : State) (l : List Word) : (s.setStack l).stack = l := rfl
@[simp] theorem setStack_DT (s : State) (l : List Word) : (s.setStack l).DT = s.DT := rfl
@[simp] theorem setStack_ST (s : State) (l : List Word) : (s.setStack l).ST = s.ST := rfl
@[simp] theorem setStack_key (s : State) (l : List Word) : (s.setStack l).key = s.key := rfl
@[simp] theorem setStack_draw (s : State) (l : List Word) : (s.setStack l).draw = s.draw := rfl
@[simp] theorem setStack_grid (s : State) (l : List Word) : (s.setStack l).grid = s.grid := rfl
@[simp] theorem setStack_mem (s : State) (l : List Word) : (s.setStack l).mem = s.mem := rfl
@[simp] theorem setStack_div (s : State) (l : List Word) : (s.setStack l).div = s.div := rfl
@[simp] theorem setStack_halted (s : State) (l : List Word) : (s.setStack l).halted = s.halted := rfl
@[simp] theorem setStack_fault (s : State) (l : List Word) : (s.setStack l).fault = s.fault := rfl
@[simp] theorem setStack_draws (s : State) (l : List Word) : (s.setStack l).draws = s.draws := rfl
@[simp] theorem setStack_cues (s : State) (l : List Word) : (s.setStack l).cues = s.cues := rfl
@[simp] theorem setStack_diags (s : State) (l : List Word) : (s.setStack l).diags = s.diags := rfl
@[simp] theorem setStack_params (s : State) (l : List Word) : (s.setStack l).params = s.params := rfl

/-! ### push -/

@[simp] theorem push_V (s : State) (w : Word) : (s.push w).V = s.V := rfl
@[simp] theorem push_pc (s : State) (w : Word) : (s.push w).pc = s.pc := rfl
@[simp] theorem push_I (s : State) (w : Word) : (s.push w).I = s.I := rfl
@[simp] theorem push_stack (s : State) (w : Word) : (s.push w).stack = w :: s.stack := rfl
@[simp] theorem push_DT (s : State) (w : Word) : (s.push w).DT = s.DT := rfl
@[simp] theorem push_ST (s : State) (w : Word) : (s.push w).ST = s.ST := rfl
@[simp] theorem push_key (s : State) (w : Word) : (s.push w).key = s.key := rfl
@[simp] theorem push_draw (s : State) (w : Word) : (s.push w).draw = s.draw := rfl
@[simp] theorem push_grid (s : State) (w : Word) : (s.push w).grid = s.grid := rfl
@[simp] theorem push_mem (s : State) (w : Word) : (s.push w).mem = s.mem := rfl
@[simp] theorem push_div (s : State) (w : Word) : (s.push w).div = s.div := rfl
@[simp] theorem push_halted (s : State) (w : Word) : (s.push w).halted = s.halted := rfl
@[simp] theorem push_fault (s : State) (w : Word) : (s.push w).fault = s.fault := rfl
@[simp] theorem push_draws (s : State) (w : Word) : (s.push w).draws = s.draws := rfl
@[simp] theorem push_cues (s : State) (w : Word) : (s.push w).cues = s.cues := rfl
@[simp] theorem push_diags (s : State) (w : Word) : (s.push w).diags = s.diags := rfl
@[simp] theorem push_params (s : State) (w : Word) : (s.push w).params = s.params := rfl

/-! ### raise -/

@[simp] theorem raise_V (s : State) (f : Fatal) : (s.raise f).V = s.V := rfl
@[simp] theorem raise_pc (s : State) (f : Fatal) : (s.raise f).pc = s.pc := rfl
@[simp] theorem raise_I (s : State) (f : Fatal) : (s.raise f).I = s.I := rfl
@[simp] theorem raise_stack (s : State) (f : Fatal) : (s.raise f).stack = s.stack := rfl
@[simp] theorem raise_DT (s : State) (f : Fatal) : (s.raise f).DT = s.DT := rfl
@[simp] theorem raise_ST (s : State) (f : Fatal) : (s.raise f).ST = s.ST := rfl
@[simp] theorem raise_key (s : State) (f : Fatal) : (s.raise f).key = s.key := rfl
@[simp] theorem raise_draw (s : State) (f : Fatal) : (s.raise f).draw = s.draw := rfl
@[simp] theorem raise_grid (s : State) (f : Fatal) : (s.raise f).grid = s.grid := rfl
@[simp] theorem raise_mem (s : State) (f : Fatal) : (s.raise f).mem = s.mem := rfl
@[simp] theorem raise_div (s : State) (f : Fatal) : (s.raise f).div = s.div := rfl
@[simp] theorem raise_halted (s : State) (f : Fatal) : (s.raise f).halted = true := rfl
@[simp] theorem raise_fault (s : State) (f : Fatal) : (s.raise f).fault = some f := rfl
@[simp] theorem raise_draws (s : State) (f : Fatal) : (s.raise f).draws = s.draws := rfl
@[simp] theorem raise_cues (s : State) (f : Fatal) : (s.raise f).cues = s.cues := rfl
@[simp] theorem raise_diags (s : State) (f : Fatal) : (s.raise f).diags = s.diags := rfl
@[simp] theorem raise_params (s : State) (f : Fatal) : (s.raise f).params = s.params := rfl

/-! ### setDiv -/

@[simp] theorem setDiv_V (s : State) (n : Nat) : (s.setDiv n).V = s.V := rfl
@[simp] theorem setDiv_pc (s : State) (n : Nat) : (s.setDiv n).pc = s.pc := rfl
@[simp] theorem setDiv_I (s : State) (n : Nat) : (s.setDiv n).I = s.I := rfl
@[simp] theorem setDiv_stack (s : State) (n : Nat) : (s.setDiv n).stack = s.stack := rfl
@[simp] theorem setDiv_DT (s : State) (n : Nat) : (s.setDiv n).DT = s.DT := rfl
@[simp] theorem setDiv_ST (s : State) (n : Nat) : (s.setDiv n).ST = s.ST := rfl
@[simp] theorem setDiv_key (s : State) (n : Nat) : (s.setDiv n).key = s.key := rfl
@[simp] theorem setDiv_draw (s : State) (n : Nat) : (s.setDiv n).draw = s.draw := rfl
@[simp] theorem setDiv_grid (s : State) (n : Nat) : (s.setDiv n).grid = s.grid := rfl
@[simp] theorem setDiv_mem (s : State) (n : Nat) : (s.setDiv n).mem = s.mem := rfl
@[simp] theorem setDiv_div (s : State) (n : Nat) : (s.setDiv n).div = n := rfl
@[simp] theorem setDiv_halted (s : State) (n : Nat) : (s.setDiv n).halted = s.halted := rfl
@[simp] theorem setDiv_fault (s : State) (n : Nat) : (s.setDiv n).fault = s.fault := rfl
@[simp] theorem setDiv_draws (s : State) (n : Nat) : (s.setDiv n).draws = s.draws := rfl
@[simp] theorem setDiv_cues (s : State) (n : Nat) : (s.setDiv n).cues = s.cues := rfl
@[simp] theorem setDiv_diags (s : State) (n : Nat) : (s.setDiv n).diags = s.diags := rfl
@[simp] theorem setDiv_params (s : State) (n : Nat) : (s.setDiv n).params = s.params := rfl

/-! ### countDraw -/

@[simp] theorem countDraw_V (s : State) : s.countDraw.V = s.V := rfl
@[simp] theorem countDraw_pc (s : State) : s.countDraw.pc = s.pc := rfl
@[simp] theorem countDraw_I (s : State) : s.countDraw.I = s.I := rfl
@[simp] theorem countDraw_stack (s : State) : s.countDraw.stack = s.stack := rfl
@[simp] theorem countDraw_DT (s : State) : s.countDraw.DT = s.DT := rfl
@[simp] theorem countDraw_ST (s : State) : s.countDraw.ST = s.ST := rfl
@[simp] theorem countDraw_key (s : State) : s.countDraw.key = s.key := rfl
@[simp] theorem countDraw_draw (s : State) : s.countDraw.draw = s.draw := rfl
@[simp] theorem countDraw_grid (s : State) : s.countDraw.grid = s.grid := rfl
@[simp] theorem countDraw_mem (s : State) : s.countDraw.mem = s.mem := rfl
@[simp] theorem countDraw_div (s : State) : s.countDraw.div = s.div := rfl
@[simp] theorem countDraw_halted (s : State) : s.countDraw.halted = s.halted := rfl
@[simp] theorem countDraw_fault (s : State) : s.countDraw.fault = s.fault := rfl
@[simp] theorem countDraw_draws (s : State) : s.countDraw.draws = s.draws + 1 := rfl
@[simp] theorem countDraw_cues (s : State) : s.countDraw.cues = s.cues := rfl
@[simp] theorem countDraw_diags (s : State) : s.countDraw.diags = s.diags := rfl
@[simp] theorem countDraw_params (s : State) : s.countDraw.params = s.params := rfl

/-! ### pressKey -/

@[simp] theorem pressKey_V (s : State) (k : Reg) (b : Bool) : (s.pressKey k b).V = s.V := rfl
@[simp] theorem pressKey_pc (s : State) (k : Reg) (b : Bool) : (s.pressKey k b).pc = s.pc := rfl
@[simp] theorem pressKey_I (s : State) (k : Reg) (b : Bool) : (s.pressKey k b).I = s.I := rfl
@[simp] theorem pressKey_stack (s : State) (k : Reg) (b : Bool) : (s.pressKey k b).stack = s.stack := rfl
@[simp] theorem pressKey_DT (s : State) (k : Reg) (b : Bool) : (s.pressKey k b).DT = s.DT := rfl
@[simp] theorem pressKey_ST (s : State) (k : Reg) (b : Bool) : (s.pressKey k b).ST = s.ST := rfl
@[simp] theorem pressKey_key (s : State) (k : Reg) (b : Bool) : (s.pressKey k b).key = s.key.set k.val b k.isLt := rfl
@[simp] theorem pressKey_draw (s : State) (k : Reg) (b : Bool) : (s.pressKey k b).draw = s.draw := rfl
@[simp] theorem pressKey_grid (s : State) (k : Reg) (b : Bool) : (s.pressKey k b).grid = s.grid := rfl
@[simp] theorem pressKey_mem (s : State) (k : Reg) (b : Bool) : (s.pressKey k b).mem = s.mem := rfl
@[simp] theorem pressKey_div (s : State) (k : Reg) (b : Bool) : (s.pressKey k b).div = s.div := rfl
@[simp] theorem pressKey_halted (s : State) (k : Reg) (b : Bool) : (s.pressKey k b).halted = s.halted := rfl
@[simp] theorem pressKey_fault (s : State) (k : Reg) (b : Bool) : (s.pressKey k b).fault = s.fault := rfl
@[simp] theorem pressKey_draws (s : State) (k : Reg) (b : Bool) : (s.pressKey k b).draws = s.draws := rfl
@[simp] theorem pressKey_cues (s : State) (k : Reg) (b : Bool) : (s.pressKey k b).cues = s.cues := rfl
@[simp] theorem pressKey_diags (s : State) (k : Reg) (b : Bool) : (s.pressKey k b).diags = s.diags := rfl
@[simp] theorem pressKey_params (s : State) (k : Reg) (b : Bool) : (s.pressKey k b).params = s.params := rfl

/-! ### skipIf -/

@[simp] theorem skipIf_V (s : State) (c : Bool) : (s.skipIf c).V = s.V := by
  unfold skipIf; split <;> rfl
@[simp] theorem skipIf_I (s : State) (c : Bool) : (s.skipIf c).I = s.I := by
  unfold skipIf; split <;> rfl
@[simp] theorem skipIf_stack (s : State) (c : Bool) : (s.skipIf c).stack = s.stack := by
  unfold skipIf; split <;> rfl
@[simp] theorem skipIf_DT (s : State) (c : Bool) : (s.skipIf c).DT = s.DT := by
  unfold skipIf; split <;> rfl
@[simp] theorem skipIf_ST (s : State) (c : Bool) : (s.skipIf c).ST = s.ST := by
  unfold skipIf; split <;> rfl
@[simp] theorem skipIf_key (s : State) (c : Bool) : (s.skipIf c).key = s.key := by
  unfold skipIf; split <;> rfl
@[simp] theorem skipIf_draw (s : State) (c : Bool) : (s.skipIf c).draw = s.draw := by
  unfold skipIf; split <;> rfl
@[simp] theorem skipIf_grid (s : State) (c : Bool) : (s.skipIf c).grid = s.grid := by
  unfold skipIf; split <;> rfl
@[simp] theorem skipIf_mem (s : State) (c : Bool) : (s.skipIf c).mem = s.mem := by
  unfold skipIf; split <;> rfl
@[simp] theorem skipIf_div (s : State) (c : Bool) : (s.skipIf c).div = s.div := by
  unfold skipIf; split <;> rfl
@[simp] theorem skipIf_halted (s : State) (c : Bool) : (s.skipIf c).halted = s.halted := by
  unfold skipIf; split <;> rfl
@[simp] theorem skipIf_fault (s : State) (c : Bool) : (s.skipIf c).fault = s.fault := by
  unfold skipIf; split <;> rfl
@[simp] theorem skipIf_draws (s : State) (c : Bool) : (s.skipIf c).draws = s.draws := by
  unfold skipIf; split <;> rfl
@[simp] theorem skipIf_cues (s : State) (c : Bool) : (s.skipIf c).cues = s.cues := by
  unfold skipIf; split <;> rfl
@[simp] theorem skipIf_diags (s : State) (c : Bool) : (s.skipIf c).diags = s.diags := by
  unfold skipIf; split <;> rfl
@[simp] theorem skipIf_params (s : State) (c : Bool) : (s.skipIf c).params = s.params := by
  unfold skipIf; split <;> rfl

/-! ### noteDiagIf -/

@[simp] theorem noteDiagIf_V (s : State) (c : Bool) : (s.noteDiagIf c).V = s.V := by
  unfold noteDiagIf; split <;> rfl
@[simp] theorem noteDiagIf_pc (s : State) (c : Bool) : (s.noteDiagIf c).pc = s.pc := by
  unfold noteDiagIf; split <;> rfl
@[simp] theorem noteDiagIf_I (s : State) (c : Bool) : (s.noteDiagIf c).I = s.I := by
  unfold noteDiagIf; split <;> rfl
@[simp] theorem noteDiagIf_stack (s : State) (c : Bool) : (s.noteDiagIf c).stack = s.stack := by
  unfold noteDiagIf; split <;> rfl
@[simp] theorem noteDiagIf_DT (s : State) (c : Bool) : (s.noteDiagIf c).DT = s.DT := by
  unfold noteDiagIf; split <;> rfl
@[simp] theorem noteDiagIf_ST (s : State) (c : Bool) : (s.noteDiagIf c).ST = s.ST := by
  unfold noteDiagIf; split <;> rfl
@[simp] theorem noteDiagIf_key (s : State) (c : Bool) : (s.noteDiagIf c).key = s.key := by
  unfold noteDiagIf; split <;> rfl
@[simp] theorem noteDiagIf_draw (s : State) (c : Bool) : (s.noteDiagIf c).draw = s.draw := by
  unfold noteDiagIf; split <;> rfl
@[simp] theorem noteDiagIf_grid (s : State) (c : Bool) : (s.noteDiagIf c).grid = s.grid := by
  unfold noteDiagIf; split <;> rfl
@[simp] theorem noteDiagIf_mem (s : State) (c : Bool) : (s.noteDiagIf c).mem = s.mem := by
  unfold noteDiagIf; split <;> rfl
@[simp] theorem noteDiagIf_div (s : State) (c : Bool) : (s.noteDiagIf c).div = s.div := by
  unfold noteDiagIf; split <;> rfl
@[simp] theorem noteDiagIf_halted (s : State) (c : Bool) : (s.noteDiagIf c).halted = s.halted := by
  unfold noteDiagIf; split <;> rfl
@[simp] theorem noteDiagIf_fault (s : State) (c : Bool) : (s.noteDiagIf c).fault = s.fault := by
  unfold noteDiagIf; split <;> rfl
@[simp] theorem noteDiagIf_draws (s : State) (c : Bool) : (s.noteDiagIf c).draws = s.draws := by
  unfold noteDiagIf; split <;> rfl
@[simp] theorem noteDiagIf_cues (s : State) (c : Bool) : (s.noteDiagIf c).cues = s.cues := by
  unfold noteDiagIf; split <;> rfl
@[simp] theorem noteDiagIf_params (s : State) (c : Bool) : (s.noteDiagIf c).params = s.params := by
  unfold noteDiagIf; split <;> rfl

/-! ### emitCueIf -/

@[simp] theorem emitCueIf_V (s : State) (c : Bool) : (s.emitCueIf c).V = s.V := by
  unfold emitCueIf; split <;> rfl
@[simp] theorem emitCueIf_pc (s : State) (c : Bool) : (s.emitCueIf c).pc = s.pc := by
  unfold emitCueIf; split <;> rfl
@[simp] theorem emitCueIf_I (s : State) (c : Bool) : (s.emitCueIf c).I = s.I := by
  unfold emitCueIf; split <;> rfl
@[simp] theorem emitCueIf_stack (s : State) (c : Bool) : (s.emitCueIf c).stack = s.stack := by
  unfold emitCueIf; split <;> rfl
@[simp] theorem emitCueIf_DT (s : State) (c : Bool) : (s.emitCueIf c).DT = s.DT := by
  unfold emitCueIf; split <;> rfl
@[simp] theorem emitCueIf_ST (s : State) (c : Bool) : (s.emitCueIf c).ST = s.ST := by
  unfold emitCueIf; split <;> rfl
@[simp] theorem emitCueIf_key (s : State) (c : Bool) : (s.emitCueIf c).key = s.key := by
  unfold emitCueIf; split <;> rfl
@[simp] theorem emitCueIf_draw (s : State) (c : Bool) : (s.emitCueIf c).draw = s.draw := by
  unfold emitCueIf; split <;> rfl
@[simp] theorem emitCueIf_grid (s : State) (c : Bool) : (s.emitCueIf c).grid = s.grid := by
  unfold emitCueIf; split <;> rfl
@[simp] theorem emitCueIf_mem (s : State) (c : Bool) : (s.emitCueIf c).mem = s.mem := by
  unfold emitCueIf; split <;> rfl
@[simp] theorem emitCueIf_div (s : State) (c : Bool) : (s.emitCueIf c).div = s.div := by
  unfold emitCueIf; split <;> rfl
@[simp] theorem emitCueIf_halted (s : State) (c : Bool) : (s.emitCueIf c).halted = s.halted := by
  unfold emitCueIf; split <;> rfl
@[simp] theorem emitCueIf_fault (s : State) (c : Bool) : (s.emitCueIf c).fault = s.fault := by
  unfold emitCueIf; split <;> rfl
@[simp] theorem emitCueIf_draws (s : State) (c : Bool) : (s.emitCueIf c).draws = s.draws := by
  unfold emitCueIf; split <;> rfl
@[simp] theorem emitCueIf_diags (s : State) (c : Bool) : (s.emitCueIf c).diags = s.diags := by
  unfold emitCueIf; split <;> rfl
@[simp] theorem emitCueIf_params (s : State) (c : Bool) : (s.emitCueIf c).params = s.params := by
  unfold emitCueIf; split <;> rfl

/-! ### writeByte -/

@[simp] theorem writeByte_V (s : State) (a : Nat) (v : Byte) : (s.writeByte a v).V = s.V := by
  unfold writeByte; split <;> rfl
@[simp] theorem writeByte_pc (s : State) (a : Nat) (v : Byte) : (s.writeByte a v).pc = s.pc := by
  unfold writeByte; split <;> rfl
@[simp] theorem writeByte_I (s : State) (a : Nat) (v : Byte) : (s.writeByte a v).I = s.I := by
  unfold writeByte; split <;> rfl
@[simp] theorem writeByte_stack (s : State) (a : Nat) (v : Byte) : (s.writeByte a v).stack = s.stack := by
  unfold writeByte; split <;> rfl
@[simp] theorem writeByte_DT (s : State) (a : Nat) (v : Byte) : (s.writeByte a v).DT = s.DT := by
  unfold writeByte; split <;> rfl
@[simp] theorem writeByte_ST (s : State) (a : Nat) (v : Byte) : (s.writeByte a v).ST = s.ST := by
  unfold writeByte; split <;> rfl
@[simp] theorem writeByte_key (s : State) (a : Nat) (v : Byte) : (s.writeByte a v).key = s.key := by
  unfold writeByte; split <;> rfl
@[simp] theorem writeByte_draw (s : State) (a : Nat) (v : Byte) : (s.writeByte a v).draw = s.draw := by
  unfold writeByte; split <;> rfl
@[simp] theorem writeByte_grid (s : State) (a : Nat) (v : Byte) : (s.writeByte a v).grid = s.grid := by
  unfold writeByte; split <;> rfl
@[simp] theorem writeByte_div (s : State) (a : Nat) (v : Byte) : (s.writeByte a v).div = s.div := by
  unfold writeByte; split <;> rfl
@[simp] theorem writeByte_halted (s : State) (a : Nat) (v : Byte) : (s.writeByte a v).halted = s.halted := by
  unfold writeByte; split <;> rfl
@[simp] theorem writeByte_fault (s : State) (a : Nat) (v : Byte) : (s.writeByte a v).fault = s.fault := by
  unfold writeByte; split <;> rfl
@[simp] theorem writeByte_draws (s : State) (a : Nat) (v : Byte) : (s.writeByte a v).draws = s.draws := by
  unfold writeByte; split <;> rfl
@[simp] theorem writeByte_cues (s : State) (a : Nat) (v : Byte) : (s.writeByte a v).cues = s.cues := by
  unfold writeByte; split <;> rfl
@[simp] theorem writeByte_params (s : State) (a : Nat) (v : Byte) : (s.writeByte a v).params = s.params := by
  unfold writeByte; split <;> rfl

/-! ### setPixel -/

@[simp] theorem setPixel_V (s : State) (px py : Nat) (b : Bool) : (s.setPixel px py b).V = s.V := by
  unfold setPixel; split <;> rfl
@[simp] theorem setPixel_pc (s : State) (px py : Nat) (b : Bool) : (s.setPixel px py b).pc = s.pc := by
  unfold setPixel; split <;> rfl
@[simp] theorem setPixel_I (s : State) (px py : Nat) (b : Bool) : (s.setPixel px py b).I = s.I := by
  unfold setPixel; split <;> rfl
@[simp] theorem setPixel_stack (s : State) (px py : Nat) (b : Bool) : (s.setPixel px py b).stack = s.stack := by
  unfold setPixel; split <;> rfl
@[simp] theorem setPixel_DT (s : State) (px py : Nat) (b : Bool) : (s.setPixel px py b).DT = s.DT := by
  unfold setPixel; split <;> rfl
@[simp] theorem setPixel_ST (s : State) (px py : Nat) (b : Bool) : (s.setPixel px py b).ST = s.ST := by
  unfold setPixel; split <;> rfl
@[simp] theorem setPixel_key (s : State) (px py : Nat) (b : Bool) : (s.setPixel px py b).key = s.key := by
  unfold setPixel; split <;> rfl
@[simp] theorem setPixel_draw (s : State) (px py : Nat) (b : Bool) : (s.setPixel px py b).draw = s.draw := by
  unfold setPixel; split <;> rfl
@[simp] theorem setPixel_mem (s : State) (px py : Nat) (b : Bool) : (s.setPixel px py b).mem = s.mem := by
  unfold setPixel; split <;> rfl
@[simp] theorem setPixel_div (s : State) (px py : Nat) (b : Bool) : (s.setPixel px py b).div = s.div := by
  unfold setPixel; split <;> rfl
@[simp] theorem setPixel_halted (s : State) (px py : Nat) (b : Bool) : (s.setPixel px py b).halted = s.halted := by
  unfold setPixel; split <;> rfl
@[simp] theorem setPixel_fault (s : State) (px py : Nat) (b : Bool) : (s.setPixel px py b).fault = s.fault := by
  unfold setPixel; split <;> rfl
@[simp] theorem setPixel_draws (s : State) (px py : Nat) (b : Bool) : (s.setPixel px py b).draws = s.draws := by
  unfold setPixel; split <;> rfl
@[simp] theorem setPixel_cues (s : State) (px py : Nat) (b : Bool) : (s.setPixel px py b).cues = s.cues := by
  unfold setPixel; split <;> rfl
@[simp] theorem setPixel_params (s : State) (px py : Nat) (b : Bool) : (s.setPixel px py b).params = s.params := by
  unfold setPixel; split <;> rfl

end Sys2Proof.Machine.State
end

