-- ==== Sys2Proof/Laws/Memory.lean ====
section
/-! SUPPORT. Memory: a write keeps the canonical form, a read gives the last value written, other bytes keep theirs. -/

namespace Sys2Proof.Machine

theorem Memory.wfFrom_mono {lo lo' : Nat} (h : lo' ≤ lo) {m : Memory} (hw : Memory.wfFrom lo m = true) :
    Memory.wfFrom lo' m = true := by
  cases m with
  | nil => rfl
  | cons c rest =>
    simp only [Memory.wfFrom, Bool.and_eq_true, decide_eq_true_eq] at hw ⊢
    exact ⟨⟨⟨by omega, hw.1.1.2⟩, hw.1.2⟩, hw.2⟩

/-- Below the first listed address every byte is unlisted. -/
theorem Memory.read_below {lo a : Nat} (h : a < lo) {m : Memory} (hw : Memory.wfFrom lo m = true) :
    Memory.read m a = Memory.unlisted := by
  induction m generalizing lo with
  | nil => rfl
  | cons c rest ih =>
    simp only [Memory.wfFrom, Bool.and_eq_true, decide_eq_true_eq] at hw
    rw [Memory.read, if_neg (by omega)]
    exact ih (by omega) hw.2

theorem Memory.write_wfFrom {lo a : Nat} (v : Byte) (hlo : lo ≤ a) (ha : a < Config.memSize) {m : Memory}
    (hw : Memory.wfFrom lo m = true) : Memory.wfFrom lo (Memory.write m a v) = true := by
  induction m generalizing lo with
  | nil => unfold Memory.write; split <;> simp_all [Memory.wfFrom]
  | cons c rest ih =>
    simp only [Memory.wfFrom, Bool.and_eq_true, decide_eq_true_eq] at hw
    unfold Memory.write
    split
    · split <;> simp_all [Memory.wfFrom]
    · split
      · split
        · exact Memory.wfFrom_mono (by omega) hw.2
        · simp_all [Memory.wfFrom]
      · simp only [Memory.wfFrom, Bool.and_eq_true, decide_eq_true_eq]
        exact ⟨hw.1, ih (by omega) hw.2⟩

/-- A write in range keeps the canonical form. -/
theorem Memory.write_wf {a : Nat} (v : Byte) (ha : a < Config.memSize) {m : Memory} (hw : Memory.wf m = true) :
    Memory.wf (Memory.write m a v) = true :=
  Memory.write_wfFrom v (Nat.zero_le a) ha hw

theorem Memory.read_nil (a : Nat) : Memory.read [] a = Memory.unlisted := rfl

theorem Memory.read_cons (k : Nat) (v : Byte) (rest : Memory) (a : Nat) :
    Memory.read ((k, v) :: rest) a = if k = a then v else Memory.read rest a := rfl

theorem Memory.read_write_from {lo a : Nat} (v : Byte) (b : Nat) {m : Memory} (hw : Memory.wfFrom lo m = true) :
    Memory.read (Memory.write m a v) b = if b = a then v else Memory.read m b := by
  induction m generalizing lo with
  | nil =>
    unfold Memory.write
    by_cases hv : v = Memory.unlisted <;> by_cases hb : b = a
    · rw [if_pos hv, if_pos hb, hv, Memory.read_nil]
    · rw [if_pos hv, if_neg hb]
    · rw [if_neg hv, if_pos hb, Memory.read_cons, if_pos hb.symm]
    · rw [if_neg hv, if_neg hb, Memory.read_cons, if_neg (Ne.symm hb)]
  | cons c rest ih =>
    obtain ⟨k, w⟩ := c
    simp only [Memory.wfFrom, Bool.and_eq_true, decide_eq_true_eq] at hw
    have below : ∀ x, x ≤ k → Memory.read rest x = Memory.unlisted :=
      fun x hx => Memory.read_below (by omega) hw.2
    simp only [Memory.write]
    split
    · split <;> by_cases hb : b = a
      · rw [Memory.read_cons, if_neg (by omega), below b (by omega), if_pos hb]; exact (by assumption : v = _).symm
      · rw [if_neg hb]
      · rw [if_pos hb, Memory.read_cons, if_pos hb.symm]
      · rw [if_neg hb, Memory.read_cons, if_neg (Ne.symm hb)]
    · split
      · split <;> by_cases hb : b = a
        · rw [if_pos hb, below b (by omega)]; exact (by assumption : v = _).symm
        · rw [if_neg hb, Memory.read_cons, if_neg (by omega)]
        · rw [if_pos hb, Memory.read_cons, if_pos hb.symm]
        · rw [if_neg hb, Memory.read_cons, if_neg (Ne.symm hb), Memory.read_cons, if_neg (by omega)]
      · rw [Memory.read_cons, Memory.read_cons, ih hw.2]
        by_cases hk : k = b
        · rw [if_pos hk, if_pos hk, if_neg (by omega)]
        · rw [if_neg hk, if_neg hk]

/-- What a read gives after a write. -/
theorem Memory.read_write {a : Nat} (v : Byte) (b : Nat) {m : Memory} (hw : Memory.wf m = true) :
    Memory.read (Memory.write m a v) b = if b = a then v else Memory.read m b :=
  Memory.read_write_from v b hw

end Sys2Proof.Machine
end

