-- ==== Sys2Proof/Laws/Ops.lean ====
section
/-! SUPPORT. What each shared operation does, said once. -/

namespace Sys2Proof.Machine.State

open Sys2Proof.Safety

/-! ### Registers -/

theorem getV_congr {s t : State} (h : t.V = s.V) (k : Reg) : t.getV k = s.getV k := by simp [getV, h]

/-- Reading a register after one was written. -/
theorem getV_setV (s : State) (x k : Reg) (v : Byte) : (s.setV x v).getV k = if k = x then v else s.getV k := by
  simp only [getV, setV, Vector.get_eq_getElem, Vector.getElem_set]
  by_cases h : k = x
  · simp [h]
  · rw [if_neg h, if_neg (fun e => h (Fin.ext e.symm))]

@[simp] theorem getV_setV_same (s : State) (x : Reg) (v : Byte) : (s.setV x v).getV x = v := by simp [getV_setV]

theorem getV_setV_ne (s : State) {x k : Reg} (v : Byte) (h : k ≠ x) : (s.setV x v).getV k = s.getV k := by
  simp [getV_setV, h]

/-! ### Memory -/

theorem readByte_congr {s t : State} (h : t.mem = s.mem) (a : Nat) : t.readByte a = s.readByte a := by
  simp [readByte, h]

theorem outOfRange_iff (a : Nat) : outOfRange a = true ↔ 4096 ≤ a := decide_eq_true_iff

/-- In range, a read gives the byte stored. -/
theorem readByte_of_lt (s : State) {a : Nat} (h : a < 4096) : s.readByte a = s.mem.read a :=
  if_neg (fun e => absurd ((outOfRange_iff a).1 e) (by omega))

/-- Out of range, a read gives 0x00. -/
theorem readByte_of_ge (s : State) {a : Nat} (h : 4096 ≤ a) : s.readByte a = 0 := if_pos ((outOfRange_iff a).2 h)

/-- In range, a write stores. -/
theorem writeByte_of_lt (s : State) {a : Nat} (v : Byte) (h : a < 4096) : s.writeByte a v = s.setMem (s.mem.write a v) :=
  if_neg (fun e => absurd ((outOfRange_iff a).1 e) (by omega))

/-- Out of range, a write only fires the diagnostic. -/
theorem writeByte_of_ge (s : State) {a : Nat} (v : Byte) (h : 4096 ≤ a) : s.writeByte a v = s.noteDiag :=
  if_pos ((outOfRange_iff a).2 h)

/-- Reading a byte after one was written. -/
theorem readByte_writeByte (s : State) (hw : Memory.wf s.mem = true) (a b : Nat) (v : Byte) :
    (s.writeByte a v).readByte b = if b = a ∧ a < 4096 then v else s.readByte b := by
  by_cases ha : a < 4096
  · rw [writeByte_of_lt s v ha]
    by_cases hb : b < 4096
    · rw [readByte_of_lt _ hb, readByte_of_lt _ hb, setMem_mem, Memory.read_write v b hw]
      by_cases hab : b = a
      · rw [if_pos hab, if_pos ⟨hab, ha⟩]
      · rw [if_neg hab, if_neg (fun h => hab h.1)]
    · rw [readByte_of_ge _ (by omega), readByte_of_ge _ (by omega), if_neg (by omega)]
  · rw [writeByte_of_ge s v (by omega), if_neg (fun h => ha h.2)]
    exact readByte_congr (noteDiag_mem s) b

/-- A write keeps the canonical form, in range or not. -/
theorem writeByte_wf (s : State) (hw : Memory.wf s.mem = true) (a : Nat) (v : Byte) :
    Memory.wf (s.writeByte a v).mem = true := by
  unfold writeByte
  split
  · exact hw
  · rename_i h
    exact Memory.write_wf v (by simpa [outOfRange] using h) hw

theorem writeByte_diags (s : State) (a : Nat) (v : Byte) :
    (s.writeByte a v).diags = if 4096 ≤ a then s.diags + 1 else s.diags := by
  by_cases ha : a < 4096
  · rw [writeByte_of_lt s v ha, if_neg (by omega), setMem_diags]
  · rw [writeByte_of_ge s v (by omega), if_pos (by omega), noteDiag_diags]

/-! ### The two kinds of repeated access: what they leave alone -/

/-- Everything but memory and the diagnostic count is the same. -/
structure SameButMem (s t : State) : Prop where
  V : t.V = s.V
  pc : t.pc = s.pc
  I : t.I = s.I
  stack : t.stack = s.stack
  DT : t.DT = s.DT
  ST : t.ST = s.ST
  key : t.key = s.key
  draw : t.draw = s.draw
  grid : t.grid = s.grid
  div : t.div = s.div
  halted : t.halted = s.halted
  fault : t.fault = s.fault
  draws : t.draws = s.draws
  cues : t.cues = s.cues
  params : t.params = s.params

theorem SameButMem.refl (s : State) : SameButMem s s :=
  ⟨rfl, rfl, rfl, rfl, rfl, rfl, rfl, rfl, rfl, rfl, rfl, rfl, rfl, rfl, rfl⟩

theorem SameButMem.trans {s t u : State} (h : SameButMem s t) (g : SameButMem t u) : SameButMem s u :=
  ⟨g.V.trans h.V, g.pc.trans h.pc, g.I.trans h.I, g.stack.trans h.stack, g.DT.trans h.DT, g.ST.trans h.ST,
   g.key.trans h.key, g.draw.trans h.draw, g.grid.trans h.grid, g.div.trans h.div, g.halted.trans h.halted,
   g.fault.trans h.fault, g.draws.trans h.draws, g.cues.trans h.cues, g.params.trans h.params⟩

theorem writeByte_same (s : State) (a : Nat) (v : Byte) : SameButMem s (s.writeByte a v) := by
  constructor <;> simp

theorem writeBytes_same (s : State) (a : Nat) (l : List Byte) : SameButMem s (s.writeBytes a l) := by
  induction l generalizing s a with
  | nil => exact SameButMem.refl s
  | cons b rest ih => exact (writeByte_same s a b).trans (ih _ _)

theorem writeBytes_wf (s : State) (hw : Memory.wf s.mem = true) (a : Nat) (l : List Byte) :
    Memory.wf (s.writeBytes a l).mem = true := by
  induction l generalizing s a with
  | nil => exact hw
  | cons b rest ih => exact ih _ (writeByte_wf s hw a b) _

/-- Reading a byte after a run of bytes was stored: byte `k` of the run at `a + k`, if that is in range. -/
theorem readByte_writeBytes (s : State) (hw : Memory.wf s.mem = true) (a b : Nat) (l : List Byte) :
    (s.writeBytes a l).readByte b =
      if a ≤ b ∧ b < 4096 then l[b - a]?.getD (s.readByte b) else s.readByte b := by
  induction l generalizing s a with
  | nil => simp [writeBytes]
  | cons v rest ih =>
    rw [writeBytes, ih _ (writeByte_wf s hw a v), readByte_writeByte s hw]
    by_cases hb : b < 4096
    · by_cases hab : b = a
      · subst hab; simp [hb]
      · by_cases hlt : a ≤ b
        · have e : b - a = (b - (a + 1)) + 1 := by omega
          have h1 : a + 1 ≤ b := by omega
          simp only [hab, hb, hlt, h1, e, false_and, and_self, if_true, if_false, List.getElem?_cons_succ]
        · have h1 : ¬ a + 1 ≤ b := by omega
          simp [hab, hlt, h1]
    · have h1 : ¬ (b = a ∧ a < 4096) := by omega
      simp [hb, h1]

theorem storeRegs_fold_same (s u : State) (l : List Reg) :
    SameButMem u (l.foldl (fun t k => t.writeByte (s.effAddr k.val) (s.getV k)) u) := by
  induction l generalizing u with
  | nil => exact SameButMem.refl u
  | cons k rest ih => exact (writeByte_same u _ _).trans (ih _)

theorem storeRegs_same (s : State) (x : Reg) : SameButMem s (s.storeRegs x) := storeRegs_fold_same s s _

theorem storeRegs_wf (s : State) (hw : Memory.wf s.mem = true) (x : Reg) : Memory.wf (s.storeRegs x).mem = true := by
  unfold storeRegs
  generalize regsUpTo x = l
  suffices h : ∀ u : State, Memory.wf u.mem = true →
      Memory.wf (l.foldl (fun t k => t.writeByte (s.effAddr k.val) (s.getV k)) u).mem = true from h s hw
  induction l with
  | nil => exact fun u hu => hu
  | cons k rest ih => exact fun u hu => ih _ (writeByte_wf u hu _ _)

/-- Everything but the registers and the diagnostic count is the same. -/
structure SameButRegs (s t : State) : Prop where
  pc : t.pc = s.pc
  I : t.I = s.I
  stack : t.stack = s.stack
  DT : t.DT = s.DT
  ST : t.ST = s.ST
  key : t.key = s.key
  draw : t.draw = s.draw
  grid : t.grid = s.grid
  mem : t.mem = s.mem
  div : t.div = s.div
  halted : t.halted = s.halted
  fault : t.fault = s.fault
  draws : t.draws = s.draws
  cues : t.cues = s.cues
  params : t.params = s.params

theorem loadRegs_same (s : State) (x : Reg) : SameButRegs s (s.loadRegs x) := by
  unfold loadRegs
  generalize regsUpTo x = l
  suffices h : ∀ u : State, SameButRegs s u →
      SameButRegs s (l.foldl (fun t k => (t.noteRead (s.effAddr k.val)).setV k (s.readByte (s.effAddr k.val))) u) from
    h s ⟨rfl, rfl, rfl, rfl, rfl, rfl, rfl, rfl, rfl, rfl, rfl, rfl, rfl, rfl, rfl⟩
  induction l with
  | nil => exact fun u hu => hu
  | cons k rest ih =>
    refine fun u hu => ih _ ?_
    cases hu
    constructor <;> simp_all [noteRead]

/-! ### The grid -/

/-- Everything but VF, the grid and the diagnostic count is the same. -/
structure SameButGrid (s t : State) : Prop where
  regs : ∀ k, k ≠ VF → t.getV k = s.getV k
  pc : t.pc = s.pc
  I : t.I = s.I
  stack : t.stack = s.stack
  DT : t.DT = s.DT
  ST : t.ST = s.ST
  key : t.key = s.key
  draw : t.draw = s.draw
  mem : t.mem = s.mem
  div : t.div = s.div
  halted : t.halted = s.halted
  fault : t.fault = s.fault
  draws : t.draws = s.draws
  cues : t.cues = s.cues
  params : t.params = s.params

theorem SameButGrid.refl (s : State) : SameButGrid s s :=
  ⟨fun _ _ => rfl, rfl, rfl, rfl, rfl, rfl, rfl, rfl, rfl, rfl, rfl, rfl, rfl, rfl, rfl⟩

theorem SameButGrid.trans {s t u : State} (h : SameButGrid s t) (g : SameButGrid t u) : SameButGrid s u :=
  ⟨fun k hk => (g.regs k hk).trans (h.regs k hk), g.pc.trans h.pc, g.I.trans h.I, g.stack.trans h.stack,
   g.DT.trans h.DT, g.ST.trans h.ST, g.key.trans h.key, g.draw.trans h.draw, g.mem.trans h.mem, g.div.trans h.div,
   g.halted.trans h.halted, g.fault.trans h.fault, g.draws.trans h.draws, g.cues.trans h.cues,
   g.params.trans h.params⟩

/-- Reading a pixel after one was set. -/
theorem pixel_setPixel (s : State) (px py qx qy : Nat) (b : Bool) (hx : px < 64) (hy : py < 32) :
    (s.setPixel px py b).pixel qx qy = if qx = px ∧ qy = py then b else s.pixel qx qy := by
  unfold setPixel pixel
  rw [dif_pos ⟨hx, hy⟩, setGrid_grid]
  by_cases h1 : qy = py
  · subst h1
    by_cases h2 : qx = px
    · subst h2; simp [hx, hy]
    · simp [hy, h2, Ne.symm h2]
  · simp [h1, Ne.symm h1]

theorem setPixel_same (s : State) (px py : Nat) (b : Bool) : SameButGrid s (s.setPixel px py b) := by
  constructor <;> simp [getV]

theorem setPixel_diags (s : State) (px py : Nat) (b : Bool) (hx : px < 64) (hy : py < 32) :
    (s.setPixel px py b).diags = s.diags := by
  simp [setPixel, hx, hy]

theorem notePixel_of_lt (s : State) {px py : Nat} (hx : px < 64) (hy : py < 32) : s.notePixel px py = s := by
  have h : outOfGrid px py = false := by
    rw [outOfGrid, Config.gridW, Config.gridH, decide_eq_false (by omega), decide_eq_false (by omega)]; rfl
  simp [notePixel, noteDiagIf, h]

theorem notePixel_same (s : State) (px py : Nat) : SameButGrid s (s.notePixel px py) := by
  constructor <;> simp [notePixel, getV]

theorem setV_VF_same (s : State) (v : Byte) : SameButGrid s (s.setV VF v) := by
  constructor
  case regs => exact fun k hk => getV_setV_ne s v hk
  all_goals simp

theorem togglePixel_same (s : State) (px py : Nat) : SameButGrid s (s.togglePixel px py) := by
  unfold togglePixel
  split
  · exact ((notePixel_same s px py).trans (setPixel_same _ px py false)).trans (setV_VF_same _ 1)
  · exact (notePixel_same s px py).trans (setPixel_same _ px py true)

theorem drawBit_same (vx vy : Byte) (r : Nat) (b : Byte) (s : State) (c : Nat) :
    SameButGrid s (drawBit vx vy r b s c) := by
  unfold drawBit
  split
  · exact togglePixel_same s _ _
  · exact SameButGrid.refl s

theorem noteRead_same (s : State) (a : Nat) : SameButGrid s (s.noteRead a) := by
  constructor <;> simp [noteRead, getV]

theorem drawRow_same (vx vy : Byte) (s : State) (r : Nat) : SameButGrid s (drawRow vx vy s r) := by
  unfold drawRow
  refine (noteRead_same s (s.effAddr r)).trans ?_
  generalize s.readByte (s.effAddr r) = b
  generalize s.noteRead (s.effAddr r) = u
  induction List.range 8 generalizing u with
  | nil => exact SameButGrid.refl u
  | cons c rest ih => exact (drawBit_same vx vy r b u c).trans (ih _)

theorem drawSprite_same (s : State) (vx vy : Byte) (n : Nat) : SameButGrid s (s.drawSprite vx vy n) := by
  unfold drawSprite
  generalize List.range n = l
  induction l generalizing s with
  | nil => exact SameButGrid.refl s
  | cons r rest ih => exact (drawRow_same vx vy s r).trans (ih _)

/-! ### The shifts -/

/-- A shift answers a next state exactly when the instance ignores `y`, and then its effect. -/
theorem shiftOutcome_next {s t u : State} : s.shiftOutcome t = .next u ↔ s.params.shiftUsesVy = false ∧ t = u := by
  unfold shiftOutcome
  cases s.params.shiftUsesVy <;> simp

/-! ### The timer unit -/

/-- Everything but the timers, the divider and the cue count is the same. -/
structure SameButTimers (s t : State) : Prop where
  V : t.V = s.V
  pc : t.pc = s.pc
  I : t.I = s.I
  stack : t.stack = s.stack
  key : t.key = s.key
  draw : t.draw = s.draw
  grid : t.grid = s.grid
  mem : t.mem = s.mem
  halted : t.halted = s.halted
  fault : t.fault = s.fault
  draws : t.draws = s.draws
  diags : t.diags = s.diags
  params : t.params = s.params

theorem tick_same (s : State) : SameButTimers s s.tick := by
  constructor <;> simp [tick]

theorem dividerAdvance_same (s : State) : SameButTimers s s.dividerAdvance := by
  unfold dividerAdvance
  split
  · have h := tick_same (s.setDiv 0)
    exact ⟨h.V, h.pc, h.I, h.stack, h.key, h.draw, h.grid, h.mem, h.halted, h.fault, h.draws, h.diags, h.params⟩
  · constructor <;> simp

theorem dividerAdvance_div (s : State) :
    s.dividerAdvance.div = if s.div + 1 = s.params.timerDiv then 0 else s.div + 1 := by
  unfold dividerAdvance
  split <;> simp [tick]

end Sys2Proof.Machine.State
end

