-- ==== Sys2Proof/Laws/PerInstr.lean ====
section
/-! SUPPORT. Statements about every instruction, one lemma per constructor. Family RowSelects: the word of an instruction
selects the row of the opcode map it stands in (R97). -/

namespace Sys2Proof.Laws.RowSelects

/-- The encoded word has the fixed bits of its row. -/
def Statement (i : Instr) : Prop := (rowOf i).selects (encode i) = true

theorem of_eq {i : Instr} (h : encode i &&& (rowOf i).mask = (rowOf i).pattern) : Statement i := beq_iff_eq.2 h

theorem cls : Statement .cls := of_eq (by decide)
theorem ret : Statement .ret := of_eq (by decide)
theorem jp (nnn : Addr12) : Statement (.jp nnn) := of_eq (classWord_masked (by decide) nnn.isLt)
theorem call (nnn : Addr12) : Statement (.call nnn) := of_eq (classWord_masked (by decide) nnn.isLt)
theorem seImm (x : Reg) (nn : Byte) : Statement (.seImm x nn) := of_eq (classWord_masked (by decide) (by omega))
theorem sneImm (x : Reg) (nn : Byte) : Statement (.sneImm x nn) := of_eq (classWord_masked (by decide) (by omega))
theorem seReg (x y : Reg) : Statement (.seReg x y) := of_eq (encodeXYN_masked (by decide) (by decide) x y)
theorem ldImm (x : Reg) (nn : Byte) : Statement (.ldImm x nn) := of_eq (classWord_masked (by decide) (by omega))
theorem addImm (x : Reg) (nn : Byte) : Statement (.addImm x nn) := of_eq (classWord_masked (by decide) (by omega))
theorem ldReg (x y : Reg) : Statement (.ldReg x y) := of_eq (encodeXYN_masked (by decide) (by decide) x y)
theorem orReg (x y : Reg) : Statement (.orReg x y) := of_eq (encodeXYN_masked (by decide) (by decide) x y)
theorem andReg (x y : Reg) : Statement (.andReg x y) := of_eq (encodeXYN_masked (by decide) (by decide) x y)
theorem xorReg (x y : Reg) : Statement (.xorReg x y) := of_eq (encodeXYN_masked (by decide) (by decide) x y)
theorem addReg (x y : Reg) : Statement (.addReg x y) := of_eq (encodeXYN_masked (by decide) (by decide) x y)
theorem sub (x y : Reg) : Statement (.sub x y) := of_eq (encodeXYN_masked (by decide) (by decide) x y)
theorem shr (x y : Reg) : Statement (.shr x y) := of_eq (encodeXYN_masked (by decide) (by decide) x y)
theorem subn (x y : Reg) : Statement (.subn x y) := of_eq (encodeXYN_masked (by decide) (by decide) x y)
theorem shl (x y : Reg) : Statement (.shl x y) := of_eq (encodeXYN_masked (by decide) (by decide) x y)
theorem sneReg (x y : Reg) : Statement (.sneReg x y) := of_eq (encodeXYN_masked (by decide) (by decide) x y)
theorem ldI (nnn : Addr12) : Statement (.ldI nnn) := of_eq (classWord_masked (by decide) nnn.isLt)
theorem jpV0 (nnn : Addr12) : Statement (.jpV0 nnn) := of_eq (classWord_masked (by decide) nnn.isLt)
theorem rnd (x : Reg) (nn : Byte) : Statement (.rnd x nn) := of_eq (classWord_masked (by decide) (by omega))
theorem drw (x y : Reg) (n : Nibble) : Statement (.drw x y n) := of_eq (classWord_masked (by decide) (by omega))
theorem skp (x : Reg) : Statement (.skp x) := of_eq (encodeXSS_masked (by decide) (by decide) x)
theorem sknp (x : Reg) : Statement (.sknp x) := of_eq (encodeXSS_masked (by decide) (by decide) x)
theorem ldVxDt (x : Reg) : Statement (.ldVxDt x) := of_eq (encodeXSS_masked (by decide) (by decide) x)
theorem ldVxK (x : Reg) : Statement (.ldVxK x) := of_eq (encodeXSS_masked (by decide) (by decide) x)
theorem ldDtVx (x : Reg) : Statement (.ldDtVx x) := of_eq (encodeXSS_masked (by decide) (by decide) x)
theorem ldStVx (x : Reg) : Statement (.ldStVx x) := of_eq (encodeXSS_masked (by decide) (by decide) x)
theorem addI (x : Reg) : Statement (.addI x) := of_eq (encodeXSS_masked (by decide) (by decide) x)
theorem ldF (x : Reg) : Statement (.ldF x) := of_eq (encodeXSS_masked (by decide) (by decide) x)
theorem ldB (x : Reg) : Statement (.ldB x) := of_eq (encodeXSS_masked (by decide) (by decide) x)
theorem ldMemVx (x : Reg) : Statement (.ldMemVx x) := of_eq (encodeXSS_masked (by decide) (by decide) x)
theorem ldVxMem (x : Reg) : Statement (.ldVxMem x) := of_eq (encodeXSS_masked (by decide) (by decide) x)

end Sys2Proof.Laws.RowSelects
end

