-- ==== Sys2Proof/Laws/Step.lean ====
section
/-! SUPPORT. What a step can do, said once; and what the remaining shared operations do: the fetch's diagnostics, the store and
load of a run of registers, one pixel of a sprite, the timers. -/

namespace Sys2Proof.Machine

open Sys2Proof.Safety

/-- The diagnostics of `n + 1` accesses, counted from the last. -/
theorem outOfRangeCount_succ (a n : Nat) :
    outOfRangeCount a (n + 1) = outOfRangeCount a n + (if 4096 ≤ a + n then 1 else 0) := by
  simp only [outOfRangeCount, List.range_succ, List.filter_append, List.length_append]
  by_cases h : 4096 ≤ a + n <;> simp [h]

namespace State

theorem noteRead_eq (s : State) (a : Nat) : s.noteRead a = { s with diags := s.diags + (if 4096 ≤ a then 1 else 0) } := by
  unfold noteRead noteDiagIf
  by_cases h : 4096 ≤ a
  · rw [if_pos ((outOfRange_iff a).2 h)]; simp [noteDiag, h]
  · rw [if_neg (fun e => h ((outOfRange_iff a).1 e))]; simp [h]

/-- The fetch changes only the diagnostic count. -/
theorem afterFetch_eq (s : State) : s.afterFetch = { s with diags := s.diags + outOfRangeCount s.pc.toNat 2 } := by
  rw [afterFetch, noteRead_eq, noteRead_eq, outOfRangeCount_succ, outOfRangeCount_succ]
  simp [outOfRangeCount, Nat.add_assoc]

/-- The end of a step changes only the timers, the divider and the cue count. -/
theorem retire_same (u : State) : SameButTimers u u.retire := by
  unfold retire
  split
  · exact ⟨rfl, rfl, rfl, rfl, rfl, rfl, rfl, rfl, rfl, rfl, rfl, rfl, rfl⟩
  · exact dividerAdvance_same u

/-! ### A run of registers -/

theorem mem_regsUpTo (x k : Reg) : k ∈ regsUpTo x ↔ k.val ≤ x.val := by
  have h : k ∈ allRegs := by fin_cases k <;> decide
  simp [regsUpTo, List.mem_filter, h]

/-- A register after Fx65's loop over the registers `l`. -/
theorem loadRegs_fold_getV (s u : State) (l : List Reg) (j : Reg) :
    (l.foldl (fun t k => (t.noteRead (s.effAddr k.val)).setV k (s.readByte (s.effAddr k.val))) u).getV j =
      if j ∈ l then s.readByte (s.effAddr j.val) else u.getV j := by
  induction l generalizing u with
  | nil => simp
  | cons k rest ih =>
    rw [List.foldl_cons, ih, getV_setV, show (u.noteRead (s.effAddr k.val)).getV j = u.getV j from
      getV_congr (by simp [noteRead]) j]
    by_cases h1 : j ∈ rest
    · simp [h1]
    · by_cases h2 : j = k
      · subst h2; simp [h1]
      · simp [h1, h2]

/-- A register after Fx65's loads. -/
theorem loadRegs_getV (s : State) (x j : Reg) :
    (s.loadRegs x).getV j = if j.val ≤ x.val then s.readByte (s.effAddr j.val) else s.getV j := by
  rw [loadRegs, loadRegs_fold_getV]
  simp only [mem_regsUpTo]

/-! ### One pixel of a sprite -/

/-- Toggling flips that pixel and no other. -/
theorem pixel_togglePixel (s : State) (px py qx qy : Nat) (hx : px < 64) (hy : py < 32) :
    (s.togglePixel px py).pixel qx qy = if qx = px ∧ qy = py then !s.pixel px py else s.pixel qx qy := by
  have hv : ∀ (u : State) (v : Byte), (u.setV VF v).pixel qx qy = u.pixel qx qy := fun u v => by simp [pixel]
  unfold togglePixel
  rw [notePixel_of_lt s hx hy]
  cases hu : s.pixel px py
  · simp [pixel_setPixel s px py qx qy true hx hy]
  · simp [hv, pixel_setPixel s px py qx qy false hx hy]

/-- Toggling sets VF to 1 when the pixel was lit and leaves it otherwise. -/
theorem togglePixel_VF (s : State) (px py : Nat) :
    (s.togglePixel px py).getV VF = if s.pixel px py then 1 else s.getV VF := by
  unfold togglePixel
  split
  · simp
  · simp [getV, notePixel]

theorem togglePixel_diags (s : State) (px py : Nat) (hx : px < 64) (hy : py < 32) :
    (s.togglePixel px py).diags = s.diags := by
  unfold togglePixel
  rw [notePixel_of_lt s hx hy]
  split <;> simp [setPixel_diags s px py _ hx hy]

/-! ### Timers -/

theorem countDown_toNat (t : Byte) : (countDown t).toNat = t.toNat - 1 := by
  unfold countDown
  split
  · simp [*]
  · rename_i h
    have h0 : t.toNat ≠ 0 := fun e => h (BitVec.eq_of_toNat_eq e)
    have := t.isLt
    rw [BitVec.toNat_sub]; simp; omega

end State

/-! ### The step -/

/-- Everything a step that answers a next state can have done: nothing (halted), halted at decode, or executed. -/
theorem step_cases {s t : State} (h : step s = .next t) :
    (s.halted = true ∧ t = s) ∨
    (s.halted = false ∧ decode s.fetchWord = none ∧ t = s.afterFetch.raise (.unknownOpcode s.fetchWord)) ∨
    (s.halted = false ∧ ∃ i u, decode s.fetchWord = some i ∧ exec i s.afterFetch = .next u ∧ t = u.retire) := by
  unfold step at h
  split at h
  · injection h with h; exact .inl ⟨‹_›, h.symm⟩
  · rename_i hh
    have hh' : s.halted = false := by simpa using hh
    split at h
    · rename_i i hi
      cases hu : exec i s.afterFetch with
      | next u =>
        rw [hu] at h; injection h with h
        exact .inr (.inr ⟨hh', i, u, hi, hu, h.symm⟩)
      | fault r => rw [hu] at h; simp [retireOutcome] at h
      | refused r => rw [hu] at h; simp [retireOutcome] at h
    · injection h with h; exact .inr (.inl ⟨hh', ‹_›, h.symm⟩)

end Sys2Proof.Machine
end

