-- ==== Sys2Proof/Tests/Slice0.lean ====
section
/-! SUPPORT. Tests of the model and a witness for each statement with hypotheses. The expected results are from the spec:
test_<vector> is the vector of that name in spec/95_test_vectors.md, word_<pattern> a word written out from the pattern in
spec/30_encoding.md R97. -/

namespace Sys2Proof.Tests

open Sys2Proof.Machine Sys2Proof.Safety

/-! ### The small states the tests start in -/

/-- The start state of the vectors: reset, here without the glyph table, which only DR6 needs (it puts the byte there). -/
def start : State := State.reset

/-- The state a step answers, or the one it started from. -/
def nextOr (s : State) : Outcome → State
  | .next t => t
  | _ => s

/-- One step on the word `w` placed at `pc`. -/
def run (w : Nat) (s : State) : State := nextOr s (step (s.withFetchWord 16 w))

/-- `start` with some registers set. -/
def regs (l : List (Reg × Byte)) : State := l.foldl (fun s p => s.setV p.1 p.2) start

/-- Bytes put into memory. -/
def put (s : State) (a : Nat) (l : List Byte) : State := s.writeBytes a l

/-- Keys pressed. -/
def press (s : State) (l : List Reg) : State := l.foldl (fun t k => t.pressKey k true) s

/-- An instance with a finite stack of one entry. -/
def shallow (s : State) : State := { s with params := { s.params with stackDepth := some 1 } }

/-- An instance with `SHIFT_USES_VY` true. -/
def variant (s : State) : State := { s with params := { s.params with shiftUsesVy := true } }

/-! ### Well-formedness: an ill-formed term for each check -/

theorem test_image_too_large_refused : imageWellFormed (List.replicate 3585 0) = false := by decide +kernel
theorem test_image_of_3584_accepted : imageWellFormed (List.replicate 3584 0) = true := by decide +kernel
theorem test_divider_of_zero_refused : Config.Params.wellFormed { Config.defaultParams with timerDiv := 0 } = false := by decide
theorem test_shift_variant_refused : Config.Params.wellFormed { Config.defaultParams with shiftUsesVy := true } = false := by decide
theorem test_defaults_accepted : Config.defaultParams.wellFormed = true := by decide

/-! ### Decoding: one word per row, written from its pattern, and the spec's undefined words (FD7 to FD15) -/

theorem word_00E0 : decode 0x00E0 = some .cls := by decide
theorem word_00EE : decode 0x00EE = some .ret := by decide
theorem word_1nnn : decode 0x1234 = some (.jp 0x234) := by decide
theorem word_2nnn : decode 0x2ABC = some (.call 0xABC) := by decide
theorem word_3xnn : decode 0x3A05 = some (.seImm 0xA 0x05) := by decide
theorem word_4xnn : decode 0x4B81 = some (.sneImm 0xB 0x81) := by decide
theorem word_5xy0 : decode 0x5120 = some (.seReg 0x1 0x2) := by decide
theorem word_6xnn : decode 0x6AFF = some (.ldImm 0xA 0xFF) := by decide
theorem word_7xnn : decode 0x7C01 = some (.addImm 0xC 0x01) := by decide
theorem word_8xy0 : decode 0x8120 = some (.ldReg 0x1 0x2) := by decide
theorem word_8xy1 : decode 0x8231 = some (.orReg 0x2 0x3) := by decide
theorem word_8xy2 : decode 0x8342 = some (.andReg 0x3 0x4) := by decide
theorem word_8xy3 : decode 0x8453 = some (.xorReg 0x4 0x5) := by decide
theorem word_8xy4 : decode 0x8AB4 = some (.addReg 0xA 0xB) := by decide
theorem word_8xy5 : decode 0x8675 = some (.sub 0x6 0x7) := by decide
theorem word_8xy6 : decode 0x8126 = some (.shr 0x1 0x2) := by decide
theorem word_8xy7 : decode 0x8897 = some (.subn 0x8 0x9) := by decide
theorem word_8xyE : decode 0x8F0E = some (.shl 0xF 0x0) := by decide
theorem word_9xy0 : decode 0x9CD0 = some (.sneReg 0xC 0xD) := by decide
theorem word_Annn : decode 0xA123 = some (.ldI 0x123) := by decide
theorem word_Bnnn : decode 0xBFFF = some (.jpV0 0xFFF) := by decide
theorem word_Cxnn : decode 0xC30F = some (.rnd 0x3 0x0F) := by decide
theorem word_Dxyn : decode 0xD125 = some (.drw 0x1 0x2 0x5) := by decide
theorem word_Ex9E : decode 0xE19E = some (.skp 0x1) := by decide
theorem word_ExA1 : decode 0xE2A1 = some (.sknp 0x2) := by decide
theorem word_Fx07 : decode 0xF307 = some (.ldVxDt 0x3) := by decide
theorem word_Fx0A : decode 0xF20A = some (.ldVxK 0x2) := by decide
theorem word_Fx15 : decode 0xF415 = some (.ldDtVx 0x4) := by decide
theorem word_Fx18 : decode 0xF518 = some (.ldStVx 0x5) := by decide
theorem word_Fx1E : decode 0xF61E = some (.addI 0x6) := by decide
theorem word_Fx29 : decode 0xF729 = some (.ldF 0x7) := by decide
theorem word_Fx33 : decode 0xF833 = some (.ldB 0x8) := by decide
theorem word_Fx55 : decode 0xF955 = some (.ldMemVx 0x9) := by decide
theorem word_Fx65 : decode 0xFF65 = some (.ldVxMem 0xF) := by decide
theorem test_undefined_words : ([0x00E1, 0x01E0, 0x5121, 0x9121, 0x8128, 0x812F, 0xE19F, 0xF175, 0xF100] : List Word).all
    (fun w => (decode w).isNone) = true := by decide
theorem test_table_word : decodeTableWord 16 0xD125 = some (.drw 0x1 0x2 0x5) ∧ decodeTableWord 16 0x5121 = none := by decide
theorem test_fetch_word_placed : (State.reset.withFetchWord 16 0xD125).fetchWord = 0xD125 ∧
    ({ State.reset with pc := 0xFFFF }.withFetchWord 16 0x8AB4).fetchWord = 0x8AB4 := by decide

/-! ### The step -/

theorem test_FD4 : (nextOr start (step (put { start with pc := 0xFFF } 0xFFF [0x12]))).pc = 0x200 ∧
    (nextOr start (step (put { start with pc := 0xFFF } 0xFFF [0x12]))).diags = 1 := by decide
theorem test_FD6 : (nextOr start (step State.reset)).fault = some (.unknownOpcode 0x0000) ∧ (nextOr start (step State.reset)).pc = 0x200 := by decide
theorem test_FD16 : (nextOr start (step (run 0x00E1 start))).pc = 0x200 ∧ (nextOr start (step (run 0x00E1 start))).div = 0 ∧
     (run 0x00E1 start).fault = some (.unknownOpcode 0x00E1) := by decide
theorem test_TM1 : ({ start with DT := 3, ST := 3 } : State).tick.DT = 2 ∧ ({ start with DT := 3, ST := 3 } : State).tick.cues = 0 := by decide
theorem test_TM2 : ({ start with DT := 2, ST := 2 } : State).tick.ST = 1 ∧ ({ start with DT := 2, ST := 2 } : State).tick.cues = 1 := by decide
theorem test_TM3 : ({ start with DT := 1, ST := 1 } : State).tick.ST = 0 ∧ ({ start with DT := 1, ST := 1 } : State).tick.cues = 0 := by decide
theorem test_TM4 : ({ start with DT := 0, ST := 0 } : State).tick.DT = 0 ∧ ({ start with DT := 0, ST := 0 } : State).tick.cues = 0 := by decide
theorem test_TM9 : (run 0xF315 { regs [(3, 5)] with div := 8 }).DT = 4 ∧ (run 0xF315 { regs [(3, 5)] with div := 8 }).div = 0 := by decide
theorem test_TM11 : (run 0x00E1 { start with div := 8, DT := 3 }).div = 8 ∧ (run 0x00E1 { start with div := 8, DT := 3 }).DT = 3 := by decide

/-! ### Control transfer -/

theorem test_CT3 : (run 0x1FFF start).pc = 0xFFF := by decide
theorem test_CT4 : (run 0x220A { start with pc := 0x204 }).stack = [0x204] ∧ (run 0x220A { start with pc := 0x204 }).pc = 0x20A := by decide
theorem test_call_full_stack : (run 0x220A (shallow { start with stack := [0x300] })).fault = some .stackOverflow ∧
    (run 0x220A (shallow { start with stack := [0x300] })).pc = 0x200 := by decide
theorem test_CT7 : (run 0x00EE { start with pc := 0x400, stack := [0x30A, 0x204] }).stack = [0x204] ∧
    (run 0x00EE { start with pc := 0x400, stack := [0x30A, 0x204] }).pc = 0x30C := by decide
theorem test_CT6 : (run 0x00EE start).fault = some .stackUnderflow ∧ (run 0x00EE start).pc = 0x200 := by decide
theorem test_CT8 : (run 0xB300 (regs [(0, 0x10)])).pc = 0x312 := by decide
theorem test_CT10 : (run 0xBFFF (regs [(0, 0xFF)])).pc = 0x1100 := by decide
theorem test_CT11 : (run 0x3A05 (regs [(0xA, 5)])).pc = 0x204 := by decide
theorem test_CT12 : (run 0x3A05 (regs [(0xA, 6)])).pc = 0x202 := by decide
theorem test_CT13 : (run 0x4A05 (regs [(0xA, 5)])).pc = 0x202 := by decide
theorem test_CT14 : (run 0x4A05 (regs [(0xA, 6)])).pc = 0x204 := by decide
theorem test_CT15 : (run 0x5120 (regs [(1, 7), (2, 7)])).pc = 0x204 := by decide
theorem test_CT16 : (run 0x5120 (regs [(1, 7), (2, 8)])).pc = 0x202 := by decide
theorem test_CT18 : (run 0x9120 (regs [(1, 7), (2, 8)])).pc = 0x204 := by decide
theorem test_CT19 : (run 0x9120 (regs [(1, 7), (2, 7)])).pc = 0x202 := by decide

/-! ### Arithmetic -/

theorem test_AL1 : (run 0x6AFF (regs [])).getV 0xA = 0xFF := by decide
theorem test_AL2 : (run 0x7A01 (regs [(0xA, 0xFF)])).getV 0xA = 0x00 ∧ (run 0x7A01 (regs [(0xA, 0xFF)])).getV VF = 0 := by decide
theorem test_AL5 : (run 0x8120 (regs [(2, 0x33)])).getV 1 = 0x33 := by decide
theorem test_AL6 : (run 0x8121 (regs [(1, 0xF0), (2, 0x0F), (VF, 1)])).getV 1 = 0xFF ∧ (run 0x8121 (regs [(1, 0xF0), (2, 0x0F), (VF, 1)])).getV VF = 1 := by decide
theorem test_AL7 : (run 0x8122 (regs [(1, 0xF0), (2, 0x3C)])).getV 1 = 0x30 := by decide
theorem test_AL8 : (run 0x8123 (regs [(1, 0xF0), (2, 0x3C)])).getV 1 = 0xCC := by decide
theorem test_AL12 : (run 0x8124 (regs [(1, 0x80), (2, 0x80)])).getV 1 = 0x00 ∧ (run 0x8124 (regs [(1, 0x80), (2, 0x80)])).getV VF = 1 := by decide
theorem test_AL15 : (run 0x8F14 (regs [(VF, 0xF0), (1, 0x20)])).getV VF = 0x10 := by decide
theorem test_AL19 : (run 0x8125 (regs [(1, 5), (2, 5), (VF, 1)])).getV 1 = 0x00 ∧ (run 0x8125 (regs [(1, 5), (2, 5), (VF, 1)])).getV VF = 0 := by decide
theorem test_AL22 : (run 0x81F5 (regs [(1, 5), (VF, 3)])).getV 1 = 0x02 ∧ (run 0x81F5 (regs [(1, 5), (VF, 3)])).getV VF = 1 := by decide
theorem test_AL26 : (run 0x8126 (regs [(1, 0xFF), (2, 0x00)])).getV 1 = 0x7F ∧ (run 0x8126 (regs [(1, 0xFF), (2, 0x00)])).getV VF = 1 := by decide
theorem test_AL27 : (run 0x8F06 (regs [(VF, 3)])).getV VF = 0x01 := by decide
theorem test_AL29 : (run 0x8127 (regs [(1, 5), (2, 1)])).getV 1 = 0xFC ∧ (run 0x8127 (regs [(1, 5), (2, 1)])).getV VF = 0 := by decide
theorem test_AL28 : (run 0x8127 (regs [(1, 1), (2, 5)])).getV 1 = 0x04 ∧ (run 0x8127 (regs [(1, 1), (2, 5)])).getV VF = 1 := by decide
theorem test_AL31 : (run 0x812E (regs [(1, 0x81)])).getV 1 = 0x02 ∧ (run 0x812E (regs [(1, 0x81)])).getV VF = 1 := by decide
theorem test_AL32 : (run 0x812E (regs [(1, 0x40), (VF, 1)])).getV 1 = 0x80 ∧ (run 0x812E (regs [(1, 0x40), (VF, 1)])).getV VF = 0 := by decide
theorem test_AL36 : (run 0xC300 (regs [(3, 0x55)])).getV 3 = 0 ∧ (run 0xC300 (regs [(3, 0x55)])).draws = 1 := by refine ⟨BitVec.and_zero, ?_⟩; rfl

/-! ### Index register and memory -/

theorem test_MX1 : (run 0xA123 start).I = 0x123 := by decide
theorem test_MX2 : (run 0xF11E { regs [(1, 5)] with I := 0xFFE }).I = 0x1003 ∧ (run 0xF11E { regs [(1, 5)] with I := 0xFFE }).getV VF = 0 := by decide
theorem test_MX3 : (run 0xF11E { regs [(1, 1)] with I := 0xFFFF }).I = 0x0000 := by decide
theorem test_MX5 : (run 0xF129 (regs [(1, 0x0A)])).I = 0x0032 := by decide
theorem test_MX7 : (run 0xF129 (regs [(1, 0xFF)])).I = 0x04FB := by decide
theorem test_MX8 : [0x300, 0x301, 0x302].map (run 0xF133 { regs [(1, 254)] with I := 0x300 }).readByte = [2, 5, 4] := by decide
theorem test_MX11 : [0xFFE, 0xFFF].map (run 0xF133 { regs [(1, 199)] with I := 0xFFE }).readByte = [1, 9] ∧
    (run 0xF133 { regs [(1, 199)] with I := 0xFFE }).diags = 1 := by decide
theorem test_MX12 : [0x300, 0x301, 0x302, 0x303].map (run 0xF255 { regs [(0, 1), (1, 2), (2, 3), (3, 4)] with I := 0x300 }).readByte =
    [1, 2, 3, 0] := by decide
theorem test_MX14 : (run 0xFF55 { regs [(7, 8), (8, 9)] with I := 0xFF8 }).readByte 0xFFF = 8 ∧
    (run 0xFF55 { regs [(7, 8), (8, 9)] with I := 0xFF8 }).diags = 8 := by decide
theorem test_MX15 : [0, 1, 2, 3].map (run 0xF265 (put { regs [(3, 0x99)] with I := 0x300 } 0x300 [2, 5, 4])).getV = [2, 5, 4, 0x99] := by decide
theorem test_MX16 : [0, 1].map (run 0xF165 { regs [(0, 0x55), (1, 0x55)] with I := 0x1000 }).getV = [0, 0] ∧
    (run 0xF165 { regs [(0, 0x55), (1, 0x55)] with I := 0x1000 }).diags = 2 := by decide

/-! ### Display -/

theorem test_DR1 : (run 0x00E0 (start.setPixel 5 5 true)).pixel 5 5 = false ∧ (run 0x00E0 (start.setPixel 5 5 true)).draw = true := by decide
theorem test_DR6 : (run 0xD011 (put (regs [(0, 0xFE), (1, 0xFF)]) 0 [0xF0])).pixel 63 31 = true ∧ (run 0xD011 (put (regs [(0, 0xFE), (1, 0xFF)]) 0 [0xF0])).pixel 0 31 = true ∧ (run 0xD011 (put (regs [(0, 0xFE), (1, 0xFF)]) 0 [0xF0])).pixel 2 31 = false := by decide
theorem test_DR8 : (run 0xD011 (put { start.setPixel 0 0 true with I := 0x300 } 0x300 [0xC0])).pixel 0 0 = false ∧ (run 0xD011 (put { start.setPixel 0 0 true with I := 0x300 } 0x300 [0xC0])).pixel 1 0 = true ∧
    (run 0xD011 (put { start.setPixel 0 0 true with I := 0x300 } 0x300 [0xC0])).getV VF = 1 := by decide

/-! ### Keys and timers -/

theorem test_KY1 : (run 0xE19E (press (regs [(1, 3)]) [3])).pc = 0x204 := by decide
theorem test_KY5 : (run 0xE19E (press (regs [(1, 0x13)]) allRegs)).pc = 0x202 ∧ (run 0xE19E (press (regs [(1, 0x13)]) allRegs)).diags = 1 := by decide
theorem test_KY4 : (run 0xE1A1 (press (regs [(1, 3)]) [3])).pc = 0x202 := by decide
theorem test_KY6 : (run 0xE1A1 (press (regs [(1, 0x13)]) allRegs)).pc = 0x204 ∧ (run 0xE1A1 (press (regs [(1, 0x13)]) allRegs)).diags = 1 := by decide
theorem test_KY7 : (run 0xF20A (regs [(2, 0x55)])).pc = 0x200 ∧ (run 0xF20A (regs [(2, 0x55)])).getV 2 = 0x55 ∧ (run 0xF20A (regs [(2, 0x55)])).div = 1 := by decide
theorem test_KY8 : (run 0xF20A (press start [2, 7])).getV 2 = 7 ∧ (run 0xF20A (press start [2, 7])).pc = 0x202 := by decide
theorem test_KY11 : (run 0xF307 { start with DT := 0x2A }).getV 3 = 0x2A ∧ (run 0xF307 { start with DT := 0x2A }).DT = 0x2A := by decide
theorem test_KY12 : (run 0xF315 (regs [(3, 0x3C)])).DT = 0x3C := by decide
theorem test_KY13 : (run 0xF318 (regs [(3, 5)])).ST = 5 ∧ (run 0xF318 (regs [(3, 5)])).cues = 0 := by decide

/-! ### Loading -/

theorem test_LR4 : (State.reset.loadProgram (List.replicate 4000 1)).mem = [] ∧ loadResult (List.replicate 4000 1) = .tooLarge := by decide +kernel
theorem test_LR6 : [0x200, 0x201, 0x202, 0, 1, 4].map (State.reset.loadProgram [0x12, 0x00]).readByte = [0x12, 0, 0, 0xF0, 0x90, 0xF0] := by decide

/-! ### Witnesses: for each statement with hypotheses, a state and operands that meet all of them together -/

theorem witness_EncodeOfDecodedWordIsTheWord : decode 0x8AB4 = some (.addReg 0xA 0xB) := by decide

theorem witness_DecoderFollowsTheOpcodeMap : decode 0xD125 = some (.drw 0x1 0x2 0x5) := by decide

theorem witness_NoWordSelectsTwoRows : ∃ r q, r ∈ opcodeRows ∧ q ∈ opcodeRows ∧ r.selects 0xF165 = true ∧ q.selects 0xF165 = true :=
  ⟨rowOf (.ldVxMem 0x1), rowOf (.ldVxMem 0x1), by decide⟩

theorem witness_StepRunsTheDecodedInstruction : ∃ (s t : State) (i : Instr), s.halted = false ∧
    decodeBytes [s.readByte s.pc.toNat, s.readByte (s.pc.toNat + 1)] = .ok (i, []) ∧
    exec i { s with diags := s.diags + outOfRangeCount s.pc.toNat 2 } = .next t :=
  ⟨start.withFetchWord 16 0x7A01, _, .addImm 0xA 0x01, rfl, rfl, rfl⟩

/-- The boundary: the second byte of the word is out of range. -/
theorem witness_StepRunsTheDecodedInstruction_at_the_end : ∃ (s t : State) (i : Instr), s.pc = 0xFFF ∧ s.halted = false ∧
    decodeBytes [s.readByte s.pc.toNat, s.readByte (s.pc.toNat + 1)] = .ok (i, []) ∧
    exec i { s with diags := s.diags + outOfRangeCount s.pc.toNat 2 } = .next t :=
  ⟨put { start with pc := 0xFFF } 0xFFF [0x12], _, .jp 0x200, rfl, rfl, rfl, rfl⟩

theorem witness_UndefinedWordHaltsTheBlock : ∃ (s : State) (w : Word), s.halted = false ∧
    w.toNat = (s.readByte s.pc.toNat).toNat * 256 + (s.readByte (s.pc.toNat + 1)).toNat ∧ decode w = none :=
  ⟨start.withFetchWord 16 0x5121, 0x5121, by decide⟩

theorem witness_FetchAboveMemoryHalts : ∃ s : State, s.halted = false ∧ 0x1000 ≤ s.pc.toNat ∧ s.pc.toNat = 0x1000 :=
  ⟨{ start with pc := 0x1000 }, by decide⟩

/-- Both values of the parameter, and the refusal of the second reached. -/
theorem witness_EveryStepHasANextState : ∃ s u v : State, s.params.shiftUsesVy = false ∧ u.params.shiftUsesVy = true ∧
    (∃ t, step u = .next t) ∧ v.params.shiftUsesVy = true ∧ step v = .refused .shiftVariant ∧
    decode v.fetchWord = some (.shr 0x1 0x2) :=
  ⟨start, variant (start.withFetchWord 16 0x1200), variant (start.withFetchWord 16 0x8126), rfl, rfl, ⟨_, rfl⟩, rfl, rfl,
    by decide⟩

theorem witness_HaltedBlockIgnoresSteps : ∃ s : State, s.halted = true ∧ s.fault = some .stackUnderflow :=
  ⟨start.raise .stackUnderflow, by decide⟩

theorem witness_OnlyReturnAndCallRaise_ret : ∃ s t : State, s.halted = false ∧ exec .ret s = .next t ∧ t.halted = true :=
  ⟨start, _, rfl, rfl, rfl⟩

theorem witness_OnlyReturnAndCallRaise_call : ∃ s t : State, s.halted = false ∧ exec (.call 0x300) s = .next t ∧ t.halted = true :=
  ⟨shallow { start with stack := [0x204] }, _, rfl, rfl, rfl⟩

theorem witness_CompletedStepAdvancesTheDivider_counts : ∃ s t : State, s.halted = false ∧
    decode s.fetchWord = some (.ldDtVx 0x3) ∧ exec (.ldDtVx 0x3) s.afterFetch = .next t ∧ t.halted = false ∧
    s.div + 1 ≠ s.params.timerDiv :=
  ⟨(regs [(3, 5)]).withFetchWord 16 0xF315, _, rfl, by decide, rfl, by decide, by decide⟩

theorem witness_CompletedStepAdvancesTheDivider_ticks : ∃ s t : State, s.halted = false ∧
    decode s.fetchWord = some (.ldStVx 0x3) ∧ exec (.ldStVx 0x3) s.afterFetch = .next t ∧ t.halted = false ∧
    s.div + 1 = s.params.timerDiv ∧ t.ST = 2 :=
  ⟨{ (regs [(3, 2)]).withFetchWord 16 0xF318 with div := 8 }, _, rfl, by decide, rfl, by decide, by decide, by decide⟩

theorem witness_DividerCountsEveryCompletedStep : ∃ s t : State, s.div < s.params.timerDiv ∧
    Host.Core.run Sys2Proof.core 1 s = .next t ∧ t.halted = false :=
  ⟨{ start.withFetchWord 16 0x1200 with div := 8 }, _, by decide, rfl, rfl⟩

theorem witness_CueComesOnlyWithATick : ∃ s t : State, step s = .next t ∧ t.cues = s.cues + 1 :=
  ⟨{ start.withFetchWord 16 0x1200 with div := 8, ST := 2 }, _, rfl, by decide⟩

/-- A state that meets the invariant and runs: a call with a stack of finite depth, one place free. -/
def calling : State := shallow (start.setMem [(0x200, 0x23)])

theorem witness_inv : Inv calling where
  memCanonical := by decide
  pcBound := by decide
  stackBound := fun a h => absurd (show a ∈ ([] : List Word) from h) List.not_mem_nil
  stackDepth := fun d _ => show ([] : List Word).length ≤ d from Nat.zero_le d
  dividerRange := by decide
  haltLatch := rfl
  overflowOnlyFinite := fun _ => rfl

theorem witness_StepKeepsTheInvariant : ∃ s t : State, Inv s ∧ step s = .next t ∧ t.stack = [0x200] :=
  ⟨_, _, witness_inv, rfl, rfl⟩

theorem witness_EventsKeepTheInvariant : ∃ (es : List Event) (s t : State), Inv s ∧ handleAll es s = .next t ∧ es.length = 3 :=
  ⟨[.setKey 0xF true, .clearDraw, .step], _, _, witness_inv, rfl, rfl⟩

theorem witness_RegistersChangeOnlyWhereNamed : ∃ s t : State, exec (.addReg 0x1 0x2) s = .next t ∧
    t.getV 0x1 ≠ s.getV 0x1 ∧ t.getV VF ≠ s.getV VF ∧ writesFlag (.addReg 0x1 0x2) = true ∧
    destination (.addReg 0x1 0x2) ≠ some VF :=
  ⟨regs [(1, 0xFF), (2, 2)], _, rfl, by decide⟩

theorem witness_ProgramCounterLaw : ∃ s t u v : State, exec (.ldImm 0x0 0x01) s = .next t ∧ exec (.seImm 0x0 0x00) s = .next u ∧
    exec (.ldVxK 0x0) s = .next v ∧ s.pc = 0xFFFE ∧ assignsPc (.ldImm 0x0 0x01) = false ∧ isSkip (.ldImm 0x0 0x01) = false ∧
    isSkip (.seImm 0x0 0x00) = true :=
  ⟨{ start with pc := 0xFFFE }, _, _, _, rfl, rfl, rfl, by decide⟩

theorem witness_PartsAreWrittenOnlyByTheirInstructions : ∃ s t u v : State, exec (.ldI 0x123) s = .next t ∧ t.I ≠ s.I ∧
    exec (.call 0x300) s = .next u ∧ u.stack ≠ s.stack ∧ exec .cls s = .next v ∧ v.draw ≠ s.draw :=
  ⟨start, _, _, _, rfl, by decide, rfl, by decide, rfl, by decide⟩

theorem witness_PartsAreWrittenOnlyByTheirInstructions_rest : ∃ s t u v w : State, exec (.ldDtVx 0x3) s = .next t ∧ t.DT ≠ s.DT ∧
    exec (.ldStVx 0x3) s = .next u ∧ u.ST ≠ s.ST ∧ exec (.ldB 0x3) s = .next v ∧ v.readByte 2 ≠ s.readByte 2 ∧
    exec (.rnd 0x3 0x00) s = .next w ∧ w.draws ≠ s.draws :=
  ⟨regs [(3, 5)], _, _, _, _, rfl, by decide, rfl, by decide, rfl, by decide, rfl, by decide⟩

theorem witness_StepNeverClearsDrawOrMovesKeys : ∃ s t : State, step s = .next t ∧ s.draw = true :=
  ⟨{ start.withFetchWord 16 0x1200 with draw := true }, _, rfl, rfl⟩

theorem witness_SoundTimerIsNeverRead : ∃ s t u : State, exec (.ldStVx 0x3) s = .next t ∧ exec (.ldVxDt 0x3) s = .next u :=
  ⟨regs [(3, 5)], _, _, rfl, rfl⟩

/-- The stack unbounded, and one place free in a stack of finite depth. -/
theorem witness_CallPushesItsOwnAddress_room : ∃ s u : State, (∀ d, s.params.stackDepth = some d → s.stack.length < d) ∧
    u.params.stackDepth = some 1 ∧ (∀ d, u.params.stackDepth = some d → u.stack.length < d) :=
  ⟨start, shallow start, fun _ h => by simp [start, State.reset, Config.defaultParams] at h, rfl, fun _ h => by rw [show (shallow start).params.stackDepth = some 1 from rfl] at h; injection h with h; subst h; decide⟩

theorem witness_CallPushesItsOwnAddress_full : ∃ s : State, s.params.stackDepth = some 1 ∧ 1 ≤ s.stack.length :=
  ⟨shallow { start with stack := [0x204] }, by decide⟩

theorem witness_ReturnPopsAndAddsTwo : ∃ s u : State, s.stack = 0xFFE :: [0x204] ∧ u.stack = [] :=
  ⟨{ start with stack := [0xFFE, 0x204] }, start, by decide⟩

theorem witness_ReturnResumesAfterTheCall : ∃ s t u v : State, t.halted = false ∧ exec (.call 0x300) s = .next t ∧
    u.stack = t.stack ∧ exec .ret u = .next v :=
  ⟨start, _, { regs [(0, 1)] with stack := [0x200], pc := 0x30E }, _, rfl, rfl, rfl, rfl⟩

theorem witness_AddSetsCarry : (0xE : Reg) ≠ VF := by decide

theorem witness_SubtractionsSetStrictlyGreater : (0x0 : Reg) ≠ VF := by decide

theorem witness_ShiftsLoseOneBitToVF : ∃ s u : State, (0xE : Reg) ≠ VF ∧ s.params.shiftUsesVy = false ∧
    u.params.shiftUsesVy = true := ⟨start, variant start, by decide⟩

theorem witness_RandomByteIsMasked : (0x00 : Byte) = 0 := rfl

theorem witness_MemoryAccessorsAreBoundsChecked : ∃ s : State, Memory.wf s.mem = true ∧ Memory.read s.mem 4095 = 0x12 ∧
    (4095 : Nat) ≤ 4095 ∧ 4096 ≤ (4096 : Nat) ∧ (4094 : Nat) ≠ 4095 :=
  ⟨put start 0xFFF [0x12], by decide⟩

theorem witness_CanonicalMemoriesAreEqual : ∃ m n : Memory, Memory.wf m = true ∧ Memory.wf n = true ∧
    m = (put (put start 0x300 [1]) 0x200 [2]).mem ∧ n = (put (put start 0x200 [2]) 0x300 [1]).mem ∧
    ∀ a, Memory.read m a = Memory.read n a :=
  ⟨[(0x200, 2), (0x300, 1)], [(0x200, 2), (0x300, 1)], by decide, by decide, by decide, by decide, fun _ => rfl⟩

/-- The last two digits fall on 4095 and 4096. -/
theorem witness_DecimalDigitsAreStored : ∃ s : State, Memory.wf s.mem = true ∧ s.effAddr 0 ≤ 4095 ∧ s.effAddr 1 ≤ 4095 ∧
    s.effAddr 1 = 4095 ∧ ¬ s.effAddr 2 ≤ 4095 ∧ (0x300 ≠ s.effAddr 0 ∧ 0x300 ≠ s.effAddr 1 ∧ 0x300 ≠ s.effAddr 2) :=
  ⟨{ start with I := 0xFFE }, by decide⟩

theorem witness_DecimalDigitsAreStored_units : ∃ s : State, Memory.wf s.mem = true ∧ s.effAddr 2 ≤ 4095 ∧ s.effAddr 2 = 4095 :=
  ⟨{ start with I := 0xFFD }, by decide⟩

/-- Register 7 is stored at 4095, the last address in range; 0x300 is no stored address. -/
theorem witness_RegistersAreStored : ∃ s : State, Memory.wf s.mem = true ∧ (7 : Reg).val ≤ (0xF : Reg).val ∧
    s.effAddr (7 : Reg).val ≤ 4095 ∧ s.effAddr (7 : Reg).val = 4095 ∧ ∀ k : Reg, k.val ≤ (0xF : Reg).val → 0x300 ≠ s.effAddr k.val :=
  ⟨{ start with I := 0xFF8 }, by decide⟩

theorem witness_RegistersAreLoaded : (0x2 : Reg).val ≤ (0x2 : Reg).val ∧ (0x2 : Reg).val < (0x3 : Reg).val := by decide

theorem witness_StoreIsSeenByTheNextFetch : ∃ s t : State, Memory.wf s.mem = true ∧ 1 ≤ (0x1 : Reg).val ∧ s.I = s.pc + 2 ∧
    s.I.toNat + 1 ≤ 4095 ∧ s.I.toNat + 1 = 4095 ∧ exec (.ldMemVx 0x1) s = .next t :=
  ⟨{ regs [(0, 0x12), (1, 0x0A)] with pc := 0xFFC, I := 0xFFE }, _, by decide, by decide, by decide, by decide, by decide, rfl⟩

theorem witness_DrawXorsTheSpriteImage : (63 : Nat) < 64 ∧ (31 : Nat) < 32 := by decide

/-- The same sprite twice: the second time its origin is in other registers, and equal only after wrapping. -/
theorem witness_DrawingTwiceRestoresTheGrid : ∃ s t u v : State, exec (.drw 0x0 0x1 0x1) s = .next t ∧ u.grid = t.grid ∧
    (∀ a, u.readByte a = s.readByte a) ∧ u.I = s.I ∧ (u.getV 0x2).toNat % 64 = (s.getV 0x0).toNat % 64 ∧
    (u.getV 0x3).toNat % 32 = (s.getV 0x1).toNat % 32 ∧ exec (.drw 0x2 0x3 0x1) u = .next v :=
  let s := put (regs [(0, 0xFE), (1, 0xFF)]) 0 [0xF0]
  let u := { (s.setV 2 62).setV 3 31 with grid := ((s.setV VF 0).drawSprite (s.getV 0) (s.getV 1) 1).grid }
  ⟨s, _, u, _, rfl, rfl, fun _ => rfl, rfl, by decide, by decide, rfl⟩

theorem witness_DrawingTwiceRestoresTheGrid_collision : ∃ s t : State, exec (.drw 0x0 0x1 0x1) s = .next t ∧ t.getV VF = 0 ∧
    ∃ px py, SpriteCovers s (s.getV 0x0) (s.getV 0x1) 1 px py :=
  ⟨put start 0 [0x80], _, rfl, by decide, 0, 0, 0, 0, by decide⟩

/-- The two ends of the key range, and the first index that is no key. -/
theorem witness_KeySkipsTestTheLevel : ∃ s : State, (s.getV 0x0).toNat = (0x0 : Reg).val ∧ (s.getV 0x1).toNat = (0xF : Reg).val ∧
    16 ≤ (s.getV 0x2).toNat ∧ (s.getV 0x2).toNat = 16 :=
  ⟨regs [(1, 15), (2, 16)], by decide⟩

theorem witness_KeyWaitTakesTheHighestKey : ∃ s u : State, (∀ k : Reg, s.key.get k = false) ∧ u.key.get 0x7 = true ∧
    u.key.get 0x2 = true ∧ ∀ j : Reg, (0x7 : Reg).val < j.val → u.key.get j = false :=
  ⟨start, press start [2, 7], by decide⟩

theorem witness_LoadStoresGlyphsAndImage : ∃ (bytes : List Byte) (s : State), Memory.wf s.mem = true ∧ bytes.length ≤ 3584 ∧
    bytes.length = 3584 ∧ bytes[3583]? = some 0x12 ∧ (Config.glyphTable s.params)[4]? = some 0xF0 ∧ 80 ≤ 511 ∧
    (511 < 0x200 ∨ 0x200 + bytes.length ≤ 511) :=
  ⟨List.replicate 3584 0x12, start, by decide, by rw [List.length_replicate], List.length_replicate, by decide +kernel,
    by decide, by decide, by decide⟩

theorem witness_TooLargeImageIsRefusedWhole : ∃ bytes : List Byte, 3584 < bytes.length ∧ bytes.length = 3585 :=
  ⟨List.replicate 3585 0, by rw [List.length_replicate]; decide, List.length_replicate⟩

theorem witness_LoadedProgramRunsFromItsFirstWord : ∃ (rest : List Byte) (s t u : State), rest.length ≤ 3582 ∧
    handleAll [.reset, .loadProgram (encodeBytes (.ldImm 0x0 0x0A) ++ rest)] s = .next t ∧
    exec (.ldImm 0x0 0x0A) t = .next u :=
  ⟨[0x61, 0x05], start.raise .stackUnderflow, _, _, by decide, rfl, rfl⟩

theorem witness_KeyAndDrawEvents : (0xE : Reg) ≠ (0xF : Reg) := by decide

theorem witness_SnapshotIsRowMajor : (63 : Nat) < 64 ∧ (31 : Nat) < 32 := by decide

theorem witness_OnlyResetLeavesTheHaltedState : ∃ (es : List Event) (s t : State), s.halted = true ∧ Event.reset ∉ es ∧
    handleAll es s = .next t ∧ es.length = 3 :=
  ⟨[.loadProgram [0x12, 0x00], .setKey 0x7 true, .step], start.raise .stackUnderflow, _, rfl, by decide, rfl, rfl⟩

/-- The last pixel, and the first coordinates out of range on either side. -/
theorem witness_GridAccessorsAreBoundsChecked : (63 : Nat) < 64 ∧ (31 : Nat) < 32 ∧ (64 ≤ (64 : Nat) ∨ 32 ≤ (0 : Nat)) ∧
    (64 ≤ (0 : Nat) ∨ 32 ≤ (32 : Nat)) ∧ ¬ ((62 : Nat) = 63 ∧ (31 : Nat) = 31) := by decide

end Sys2Proof.Tests
end

section
/-! Proofs of spec/20_memory.md: the two memory accessors, in range and out of range (R61, R62). -/

namespace Sys2Proof.Machine.State

open Sys2Proof.Safety

/-! ### A memory access in the terms of the obligations' frame -/

theorem SameButMem.keepsRegs {s t : State} (h : SameButMem s t) : KeepsRegsBut [] s t :=
  fun k _ => getV_congr h.V k

theorem SameButMem.keepsAllBut {s t : State} (h : SameButMem s t) : KeepsAllBut [.mem, .diags] s t := by
  intro p hp
  cases p with
  | I => exact h.I
  | stack => exact h.stack
  | DT => exact h.DT
  | ST => exact h.ST
  | key => exact h.key
  | draw => exact h.draw
  | grid => exact h.grid
  | mem => exact absurd (by decide) hp
  | div => exact h.div
  | halted => exact h.halted
  | fault => exact h.fault
  | draws => exact h.draws
  | cues => exact h.cues
  | diags => exact absurd (by decide) hp
  | params => exact h.params

/-- In range, a read leaves the state alone. -/
theorem noteRead_of_lt (s : State) {a : Nat} (h : a < 4096) : s.noteRead a = s := by
  rw [noteRead_eq, if_neg (by omega), Nat.add_zero]

/-- Out of range, a read fires the diagnostic and does nothing else. -/
theorem noteRead_of_ge (s : State) {a : Nat} (h : 4096 ≤ a) : s.noteRead a = s.noteDiag := by
  rw [noteRead_eq, if_pos h, noteDiag]

/-- A following read of an in-range address returns the value written there (R62). -/
theorem readByte_writeByte_same (s : State) (hw : Memory.wf s.mem = true) {a : Nat} (v : Byte) (h : a < 4096) :
    (s.writeByte a v).readByte a = v := by
  rw [readByte_writeByte s hw, if_pos ⟨rfl, h⟩]

theorem readByte_writeByte_ne (s : State) (hw : Memory.wf s.mem = true) {a b : Nat} (v : Byte) (h : b ≠ a) :
    (s.writeByte a v).readByte b = s.readByte b := by
  rw [readByte_writeByte s hw, if_neg (fun e => h e.1)]

/-- Settles O39: the accessors' equations in range and out of range, and the frame of a write. -/
theorem memoryAccessorsAreBoundsChecked : Obligations.MemoryAccessorsAreBoundsChecked := by
  intro s a v hw
  have frame : SameButMem s (s.writeByte a v) := writeByte_same s a v
  refine ⟨fun inRange => ?_, fun outside => ?_, fun b hb => readByte_writeByte_ne s hw v hb,
    frame.keepsRegs, frame.pc, frame.keepsAllBut⟩
  · have lt : a < 4096 := by omega
    have quiet : (s.writeByte a v).diags = s.diags := by rw [writeByte_diags, if_neg (by omega)]
    exact ⟨readByte_of_lt s lt, noteRead_of_lt s lt, readByte_writeByte_same s hw v lt, quiet⟩
  · exact ⟨readByte_of_ge s outside, noteRead_of_ge s outside, writeByte_of_ge s v outside⟩

end Sys2Proof.Machine.State
end

section
/-! Proofs of spec/40_control.md: the jumps (R122, R124) and the register skips (R125 to R128). -/

namespace Sys2Proof

/-- The zero extension of a byte is its value (R7). -/
@[simp] theorem zext16_toNat (b : Byte) : (zext16 b).toNat = b.toNat := by
  rw [zext16, BitVec.toNat_ofNat, Nat.mod_eq_of_lt (by omega)]

/-- The zero extension of a 12-bit immediate is its value (R94). -/
@[simp] theorem zextAddr_toNat (nnn : Addr12) : (zextAddr nnn).toNat = nnn.toNat := by
  rw [zextAddr, BitVec.toNat_ofNat, Nat.mod_eq_of_lt (by omega)]

end Sys2Proof

namespace Sys2Proof.Machine

open Sys2Proof.Safety

/-! ### The meanings of the jumps and the register skips, by their state operation -/

theorem exec_jp (nnn : Addr12) (s : State) : exec (.jp nnn) s = .next (s.setPc (zextAddr nnn)) := rfl

theorem exec_jpV0 (nnn : Addr12) (s : State) :
    exec (.jpV0 nnn) s = .next (s.setPc (zext16 (s.getV 0) + zextAddr nnn + 2)) := rfl

theorem exec_seImm (x : Reg) (nn : Byte) (s : State) :
    exec (.seImm x nn) s = .next (s.skipIf (decide (s.getV x = nn))) := rfl

theorem exec_sneImm (x : Reg) (nn : Byte) (s : State) :
    exec (.sneImm x nn) s = .next (s.skipIf (decide (s.getV x ≠ nn))) := rfl

theorem exec_seReg (x y : Reg) (s : State) :
    exec (.seReg x y) s = .next (s.skipIf (decide (s.getV x = s.getV y))) := rfl

theorem exec_sneReg (x y : Reg) (s : State) :
    exec (.sneReg x y) s = .next (s.skipIf (decide (s.getV x ≠ s.getV y))) := rfl

namespace State

/-! ### The frame of a jump and of a skip, in the terms of the obligations -/

theorem setPc_keepsRegs (s : State) (w : Word) : KeepsRegsBut [] s (s.setPc w) :=
  fun k _ => getV_congr (setPc_V s w) k

/-- A write of `pc` leaves every other part of the state alone. -/
theorem setPc_keepsAllBut (s : State) (w : Word) : KeepsAllBut [] s (s.setPc w) := by
  intro p _
  cases p with
  | mem => exact readByte_congr (setPc_mem s w)
  | _ => rfl

/-- A skip is a jump by 4 or by 2, so what holds of a write of `pc` holds of it. -/
theorem skipIf_eq_setPc (s : State) (c : Bool) : s.skipIf c = s.setPc (s.pc + if c then 4 else 2) := by
  cases c <;> rfl

theorem skipIf_keepsRegs (s : State) (c : Bool) : KeepsRegsBut [] s (s.skipIf c) :=
  skipIf_eq_setPc s c ▸ setPc_keepsRegs s _

theorem skipIf_keepsAllBut (s : State) (c : Bool) : KeepsAllBut [] s (s.skipIf c) :=
  skipIf_eq_setPc s c ▸ setPc_keepsAllBut s _

/-- Where a skip leaves `pc`, modulo 2^16 (R24 case (b)). -/
theorem skipIf_pc_toNat (s : State) (c : Bool) :
    (s.skipIf c).pc.toNat = (s.pc.toNat + if c then 4 else 2) % 2 ^ 16 := by
  rw [skipIf_eq_setPc, setPc_pc, BitVec.toNat_add]
  cases c <;> rfl

end State

/-! ### Jumps -/

/-- `V[0] + nnn + 2` is at most 255 + 4095 + 2 = 0x1100, so the 16-bit sum does not wrap (R124). -/
theorem jumpV0Target_toNat (b : Byte) (nnn : Addr12) :
    (zext16 b + zextAddr nnn + 2).toNat = b.toNat + nnn.toNat + 2 := by
  have byteBound := b.isLt
  have addrBound := nnn.isLt
  rw [BitVec.toNat_add, BitVec.toNat_add, zext16_toNat, zextAddr_toNat, show (2 : Word).toNat = 2 from rfl]
  omega

/-- Settles O26: both jumps are one write of `pc`, and the sum of Bnnn stays below 2^16. -/
theorem jumpsLandOnTheirTargets : Obligations.JumpsLandOnTheirTargets := by
  intro nnn s
  have target : (s.setPc (zext16 (s.getV 0) + zextAddr nnn + 2)).pc.toNat = (s.getV 0).toNat + nnn.toNat + 2 :=
    jumpV0Target_toNat (s.getV 0) nnn
  exact ⟨⟨_, exec_jp nnn s, zextAddr_toNat nnn, s.setPc_keepsRegs _, s.setPc_keepsAllBut _⟩,
    ⟨_, exec_jpV0 nnn s, target, by omega, s.setPc_keepsRegs _, s.setPc_keepsAllBut _⟩⟩

/-! ### Register skips -/

/-- What an instruction whose meaning is one skip does, with its condition in any equivalent form `p`. -/
theorem exec_skip_spec {i : Instr} {s : State} {c p : Prop} [Decidable c] [Decidable p]
    (meaning : exec i s = .next (s.skipIf (decide c))) (cond : c ↔ p) :
    ∃ t, exec i s = .next t ∧ KeepsRegsBut [] s t ∧ KeepsAllBut [] s t ∧
      t.pc.toNat = (s.pc.toNat + (if p then 4 else 2)) % 2 ^ 16 := by
  refine ⟨_, meaning, s.skipIf_keepsRegs _, s.skipIf_keepsAllBut _, ?_⟩
  simp only [State.skipIf_pc_toNat, decide_eq_true_eq, cond]

/-- Settles O30: each of the four is one skip, and bytes are equal exactly when their values are. -/
theorem registerSkipsCompare : Obligations.RegisterSkipsCompare := by
  intro x y nn s
  have sameImm : s.getV x = nn ↔ (s.getV x).toNat = nn.toNat := BitVec.toNat_inj.symm
  have sameReg : s.getV x = s.getV y ↔ (s.getV x).toNat = (s.getV y).toNat := BitVec.toNat_inj.symm
  exact ⟨exec_skip_spec (exec_seImm x nn s) sameImm, exec_skip_spec (exec_sneImm x nn s) (not_congr sameImm),
    exec_skip_spec (exec_seReg x y s) sameReg, exec_skip_spec (exec_sneReg x y s) (not_congr sameReg)⟩

end Sys2Proof.Machine
end

section
/-! Proofs of spec/41_alu.md: the register loads and the immediate add (R141 to R143). -/

namespace Sys2Proof.Machine

open Sys2Proof.Safety

/-! ### The meanings of the loads and the immediate add, as one register write -/

theorem exec_ldImm (x : Reg) (nn : Byte) (s : State) : exec (.ldImm x nn) s = .next (s.setV x nn).advance := rfl

theorem exec_addImm (x : Reg) (nn : Byte) (s : State) :
    exec (.addImm x nn) s = .next (s.setV x (s.getV x + nn)).advance := rfl

theorem exec_ldReg (x y : Reg) (s : State) : exec (.ldReg x y) s = .next (s.setV x (s.getV y)).advance := rfl

namespace State

/-! ### A register write that ends the instruction, in the terms of the obligations' frame -/

theorem setV_advance_getV (s : State) (x : Reg) (v : Byte) : (s.setV x v).advance.getV x = v :=
  (getV_congr (advance_V _) x).trans (getV_setV_same s x v)

theorem setV_advance_keepsRegs (s : State) (x : Reg) (v : Byte) : KeepsRegsBut [x] s (s.setV x v).advance :=
  fun k hk => (getV_congr (advance_V _) k).trans (getV_setV_ne s v (List.ne_of_not_mem_cons hk))

/-- A register write and the advance leave every part of the state but the registers and `pc` alone. -/
theorem setV_advance_keepsAllBut (s : State) (x : Reg) (v : Byte) : KeepsAllBut [] s (s.setV x v).advance := by
  intro p _
  cases p with
  | mem => exact readByte_congr ((advance_mem _).trans (setV_mem s x v))
  | _ => rfl

end State

/-- What an instruction whose meaning is one register write does: the value is written as it stands, with no flag
(R140 (a), (b)). -/
theorem exec_setV_spec {i : Instr} {s : State} {x : Reg} {v : Byte}
    (meaning : exec i s = .next (s.setV x v).advance) :
    ∃ t, exec i s = .next t ∧ t.getV x = v ∧ t.pc = s.pc + 2 ∧ KeepsRegsBut [x] s t ∧ KeepsAllBut [] s t :=
  ⟨_, meaning, s.setV_advance_getV x v, State.advance_pc _, s.setV_advance_keepsRegs x v,
    s.setV_advance_keepsAllBut x v⟩

/-- Settles O31: each of the three is one register write, and the sum of two bytes wraps modulo 256. -/
theorem loadsAndImmediateAdd : Obligations.LoadsAndImmediateAdd := by
  intro x y nn s
  obtain ⟨t, run, sum, frame⟩ := exec_setV_spec (exec_addImm x nn s)
  have wraps : (t.getV x).toNat = ((s.getV x).toNat + nn.toNat) % 256 := by rw [sum, BitVec.toNat_add]
  exact ⟨exec_setV_spec (exec_ldImm x nn s), ⟨t, run, wraps, frame⟩, exec_setV_spec (exec_ldReg x y s)⟩

end Sys2Proof.Machine
end

section
/-! Proofs of spec/42_index_memory.md: the loads of the index register (R171, R173). -/

namespace Sys2Proof.Machine

open Sys2Proof.Safety

/-- The glyph address is five times the whole byte: the greatest, 255 * 5, fits a word, so nothing is cut off (R173). -/
@[simp] theorem glyphAddr_toNat (a : Byte) : (glyphAddr a).toNat = a.toNat * 5 := by
  rw [glyphAddr, BitVec.toNat_ofNat, Config.glyphStride, Nat.mod_eq_of_lt (by omega)]

/-! ### The meanings of the loads, as one write of the index register -/

theorem exec_ldI (nnn : Addr12) (s : State) : exec (.ldI nnn) s = .next (s.setI (zextAddr nnn)).advance := rfl

theorem exec_ldF (x : Reg) (s : State) : exec (.ldF x) s = .next (s.setI (glyphAddr (s.getV x))).advance := rfl

namespace State

/-! ### A write of the index register that ends the instruction, in the terms of the obligations' frame -/

theorem setI_advance_keepsRegs (s : State) (w : Word) : KeepsRegsBut [] s (s.setI w).advance :=
  fun k _ => getV_congr ((advance_V _).trans (setI_V s w)) k

/-- A write of `I` and the advance leave every part of the state but `I` and `pc` alone. -/
theorem setI_advance_keepsAllBut (s : State) (w : Word) : KeepsAllBut [.I] s (s.setI w).advance := by
  intro p hp
  cases p with
  | I => exact absurd (List.mem_singleton_self _) hp
  | mem => exact readByte_congr ((advance_mem _).trans (setI_mem s w))
  | _ => rfl

end State

/-- What an instruction whose meaning is one write of `I` does, with the value in numbers (R170 (a), (e)). -/
theorem exec_setI_spec {i : Instr} {s : State} {w : Word} {n : Nat}
    (meaning : exec i s = .next (s.setI w).advance) (value : w.toNat = n) :
    ∃ t, exec i s = .next t ∧ t.I.toNat = n ∧ t.pc = s.pc + 2 ∧ KeepsRegsBut [] s t ∧ KeepsAllBut [.I] s t :=
  ⟨_, meaning, value, State.advance_pc _, s.setI_advance_keepsRegs w, s.setI_advance_keepsAllBut w⟩

/-- Settles O37: each of the two is one write of `I`, of the immediate or of the glyph address as it stands. -/
theorem indexLoads : Obligations.IndexLoads := fun nnn x s =>
  ⟨exec_setI_spec (exec_ldI nnn s) (zextAddr_toNat nnn),
    exec_setI_spec (exec_ldF x s) (glyphAddr_toNat (s.getV x))⟩

end Sys2Proof.Machine
end

section
/-! Proofs of spec/43_display.md: the clear (R191). -/

namespace Sys2Proof.Machine

open Sys2Proof.Safety

/-! ### The meaning of the clear, by its state operations -/

theorem exec_cls (s : State) : exec .cls s = .next (s.clearGrid.setDraw true).advance := rfl

namespace State

/-! ### The cleared grid -/

theorem pixel_congr {s t : State} (h : t.grid = s.grid) (px py : Nat) : t.pixel px py = s.pixel px py := by
  simp [pixel, h]

/-- Every pixel of a cleared grid is off, also at coordinates out of range, where a row or a pixel reads as off (R72). -/
@[simp] theorem pixel_clearGrid (s : State) (px py : Nat) : s.clearGrid.pixel px py = false := by
  rw [pixel, clearGrid_grid]
  by_cases row : py < 32
  · by_cases col : px < 64 <;> simp [row, col]
  · simp [row]

/-! ### A clear that sets `draw` and ends the instruction, in the terms of the obligations' frame -/

theorem clearGrid_setDraw_advance_pixel (s : State) (b : Bool) (px py : Nat) :
    (s.clearGrid.setDraw b).advance.pixel px py = false :=
  (pixel_congr ((advance_grid _).trans (setDraw_grid _ b)) px py).trans (pixel_clearGrid s px py)

theorem clearGrid_setDraw_advance_keepsRegs (s : State) (b : Bool) :
    KeepsRegsBut [] s (s.clearGrid.setDraw b).advance :=
  fun k _ => getV_congr ((advance_V _).trans ((setDraw_V _ b).trans (clearGrid_V s))) k

/-- The clear leaves every part of the state but the grid, `draw` and `pc` alone. -/
theorem clearGrid_setDraw_advance_keepsAllBut (s : State) (b : Bool) :
    KeepsAllBut [.grid, .draw] s (s.clearGrid.setDraw b).advance := by
  intro p hp
  cases p with
  | grid => exact absurd (by decide) hp
  | draw => exact absurd (by decide) hp
  | mem => exact readByte_congr ((advance_mem _).trans ((setDraw_mem _ b).trans (clearGrid_mem s)))
  | _ => rfl

end State

/-- Settles O45: the grid is replaced by the clear one and `draw` is set, whatever the grid held before. -/
theorem clearTurnsEveryPixelOff : Obligations.ClearTurnsEveryPixelOff := fun s =>
  ⟨_, exec_cls s, s.clearGrid_setDraw_advance_pixel true, (State.advance_draw _).trans (State.setDraw_draw _ true),
    State.advance_pc _, s.clearGrid_setDraw_advance_keepsRegs true, s.clearGrid_setDraw_advance_keepsAllBut true⟩

end Sys2Proof.Machine
end

section
/-! Proofs of spec/44_keys_timers.md: the read of the delay timer (R214). -/

namespace Sys2Proof.Machine

/-! ### The meaning of the delay timer's read, as one register write -/

theorem exec_ldVxDt (x : Reg) (s : State) : exec (.ldVxDt x) s = .next (s.setV x s.DT).advance := rfl

/-- Settles O50: the read is one register write of the timer's value, whose frame keeps the timer itself. -/
theorem delayTimerIsRead : Obligations.DelayTimerIsRead := fun x s =>
  exec_setV_spec (exec_ldVxDt x s)

end Sys2Proof.Machine
end

section
/-! Proofs of spec/70_reset_and_hazards.md: the refusal of an image too large (R274). -/

namespace Sys2Proof

/-- An image past the limit fails the one check that both the answer and the load make (R273). -/
theorem imageWellFormed_of_gt {bytes : List Byte} (large : 3584 < bytes.length) : imageWellFormed bytes = false :=
  decide_eq_false (Nat.not_le.mpr large)

end Sys2Proof

namespace Sys2Proof.Machine

/-! ### The answer and the load of an image that fails the check -/

theorem loadResult_of_refused {bytes : List Byte} (refused : imageWellFormed bytes = false) :
    loadResult bytes = .tooLarge := by
  rw [loadResult, refused, if_neg Bool.false_ne_true]

theorem State.loadProgram_of_refused {bytes : List Byte} (s : State) (refused : imageWellFormed bytes = false) :
    s.loadProgram bytes = s := by
  rw [loadProgram, refused, if_neg Bool.false_ne_true]

/-- Settles O54: the check comes before the first write, so the refused event ends in the state it began in, glyph table
and image both unwritten. -/
theorem tooLargeImageIsRefusedWhole : Obligations.TooLargeImageIsRefusedWhole := fun bytes s large =>
  have refused : imageWellFormed bytes = false := imageWellFormed_of_gt large
  ⟨loadResult_of_refused refused, congrArg Host.Outcome.next (s.loadProgram_of_refused refused)⟩

end Sys2Proof.Machine
end

section
/-! Proofs of spec/30_encoding.md: the fields of a word and of an encoded instruction (R92 to R94), decoding and encoding as
inverses (R95 to R97), the opcode map (R97) and the undefined words (R98). -/

namespace Sys2Proof

/-! ### The fields of a word as numbers -/

theorem opClass_eq (w : Word) : opClass w = w.toNat / 4096 := by
  have := w.isLt
  unfold opClass; omega

@[simp] theorem opX_val (w : Word) : (opX w).val = w.toNat / 256 % 16 := rfl

@[simp] theorem opY_val (w : Word) : (opY w).val = w.toNat / 16 % 16 := rfl

@[simp] theorem opN_val (w : Word) : (opN w).val = w.toNat % 16 := rfl

@[simp] theorem opNN_toNat (w : Word) : (opNN w).toNat = w.toNat % 256 := BitVec.toNat_ofNat _ _

@[simp] theorem opNNN_toNat (w : Word) : (opNNN w).toNat = w.toNat % 4096 := BitVec.toNat_ofNat _ _

/-! ### The fields of an encoded word, layout by layout (R93) -/

section Layouts

variable {c : Nat} (hc : c < 16)
include hc

theorem opClass_classWord {rest : Nat} (hr : rest < 4096) : opClass (classWord c rest) = c := by
  rw [opClass_eq, classWord_toNat hc hr]; omega

theorem opNNN_classWord (nnn : Addr12) : opNNN (classWord c nnn.toNat) = nnn := by
  apply BitVec.eq_of_toNat_eq
  rw [opNNN_toNat, classWord_toNat hc nnn.isLt]; omega

theorem opClass_encodeXNN (x : Reg) (nn : Byte) : opClass (encodeXNN c x nn) = c := opClass_classWord hc (by omega)

theorem opX_encodeXNN (x : Reg) (nn : Byte) : opX (encodeXNN c x nn) = x := by
  apply Fin.ext
  rw [opX_val, encodeXNN_toNat hc]; omega

theorem opNN_encodeXNN (x : Reg) (nn : Byte) : opNN (encodeXNN c x nn) = nn := by
  apply BitVec.eq_of_toNat_eq
  rw [opNN_toNat, encodeXNN_toNat hc]; omega

theorem opClass_encodeXYN (x y : Reg) {n : Nat} (hn : n < 16) : opClass (encodeXYN c x y n) = c :=
  opClass_classWord hc (by omega)

theorem opX_encodeXYN (x y : Reg) {n : Nat} (hn : n < 16) : opX (encodeXYN c x y n) = x := by
  apply Fin.ext
  rw [opX_val, encodeXYN_toNat hc hn]; omega

theorem opY_encodeXYN (x y : Reg) {n : Nat} (hn : n < 16) : opY (encodeXYN c x y n) = y := by
  apply Fin.ext
  rw [opY_val, encodeXYN_toNat hc hn]; omega

theorem opN_encodeXYN (x y : Reg) {n : Nat} (hn : n < 16) : opN (encodeXYN c x y n) = ⟨n, hn⟩ := by
  apply Fin.ext
  show (encodeXYN c x y n).toNat % 16 = n
  rw [encodeXYN_toNat hc hn]; omega

theorem opClass_encodeXSS (x : Reg) {b : Nat} (hb : b < 256) : opClass (encodeXSS c x b) = c :=
  opClass_classWord hc (by omega)

theorem opX_encodeXSS (x : Reg) {b : Nat} (hb : b < 256) : opX (encodeXSS c x b) = x := by
  apply Fin.ext
  rw [opX_val, encodeXSS_toNat hc hb]; omega

theorem opNN_encodeXSS (x : Reg) {b : Nat} (hb : b < 256) : (opNN (encodeXSS c x b)).toNat = b := by
  rw [opNN_toNat, encodeXSS_toNat hc hb]; omega

end Layouts

/-! ### The decoder, class by class (R95, R96) -/

section Classes

variable {w : Word}

theorem decode_class0 (h : opClass w = 0x0) : decode w = decodeClass0 w := by simp only [decode, h]
theorem decode_class1 (h : opClass w = 0x1) : decode w = some (.jp (opNNN w)) := by simp only [decode, h]
theorem decode_class2 (h : opClass w = 0x2) : decode w = some (.call (opNNN w)) := by simp only [decode, h]
theorem decode_class3 (h : opClass w = 0x3) : decode w = some (.seImm (opX w) (opNN w)) := by simp only [decode, h]
theorem decode_class4 (h : opClass w = 0x4) : decode w = some (.sneImm (opX w) (opNN w)) := by simp only [decode, h]
theorem decode_class5 (h : opClass w = 0x5) :
    decode w = if (opN w).val = 0 then some (.seReg (opX w) (opY w)) else none := by simp only [decode, h]
theorem decode_class6 (h : opClass w = 0x6) : decode w = some (.ldImm (opX w) (opNN w)) := by simp only [decode, h]
theorem decode_class7 (h : opClass w = 0x7) : decode w = some (.addImm (opX w) (opNN w)) := by simp only [decode, h]
theorem decode_class8 (h : opClass w = 0x8) : decode w = decodeClass8 w := by simp only [decode, h]
theorem decode_class9 (h : opClass w = 0x9) :
    decode w = if (opN w).val = 0 then some (.sneReg (opX w) (opY w)) else none := by simp only [decode, h]
theorem decode_classA (h : opClass w = 0xA) : decode w = some (.ldI (opNNN w)) := by simp only [decode, h]
theorem decode_classB (h : opClass w = 0xB) : decode w = some (.jpV0 (opNNN w)) := by simp only [decode, h]
theorem decode_classC (h : opClass w = 0xC) : decode w = some (.rnd (opX w) (opNN w)) := by simp only [decode, h]
theorem decode_classD (h : opClass w = 0xD) : decode w = some (.drw (opX w) (opY w) (opN w)) := by simp only [decode, h]
theorem decode_classE (h : opClass w = 0xE) : decode w = decodeClassE w := by simp only [decode, h]
theorem decode_classF (h : opClass w = 0xF) : decode w = decodeClassF w := by simp only [decode, h]

end Classes

/-! ### Decoding what was encoded (R97) -/

/-- One case per layout of R93: the class selects the arm, the other fields are the operands. -/
theorem decode_encode (i : Instr) : decode (encode i) = some i := by
  cases i with
  | cls | ret => rfl
  | jp nnn | call nnn | ldI nnn | jpV0 nnn =>
    simp (disch := omega) only [encode, decode, opClass_classWord, opNNN_classWord]
  | seImm x nn | sneImm x nn | ldImm x nn | addImm x nn | rnd x nn =>
    simp (disch := omega) only [encode, decode, opClass_encodeXNN, opX_encodeXNN, opNN_encodeXNN]
  | seReg x y | ldReg x y | orReg x y | andReg x y | xorReg x y | addReg x y | sub x y | shr x y | subn x y | shl x y
  | sneReg x y =>
    simp (disch := omega) only [encode, decode, decodeClass8, opClass_encodeXYN, opX_encodeXYN, opY_encodeXYN,
      opN_encodeXYN, if_true]
  | drw x y n =>
    simp (disch := omega) only [encode, decode, opClass_encodeXYN, opX_encodeXYN, opY_encodeXYN, opN_encodeXYN,
      Fin.eta]
  | skp x | sknp x | ldVxDt x | ldVxK x | ldDtVx x | ldStVx x | addI x | ldF x | ldB x | ldMemVx x | ldVxMem x =>
    simp (disch := omega) only [encode, decode, decodeClassE, decodeClassF, opClass_encodeXSS, opX_encodeXSS,
      opNN_encodeXSS]

/-- The two bytes of a word, high byte first, make the word again (R65). -/
theorem wordOfBytes_high_low (w : Word) : wordOfBytes (highByte w) (lowByte w) = w := by
  apply BitVec.eq_of_toNat_eq
  have := w.isLt
  simp only [wordOfBytes, highByte, lowByte, BitVec.toNat_ofNat]; omega

theorem decodeWord_of_some {w : Word} {i : Instr} (h : decode w = some i) : decodeWord w = .ok i := by
  rw [decodeWord, h]

theorem decodeBytes_encodeBytes (i : Instr) (rest : List Byte) : decodeBytes (encodeBytes i ++ rest) = .ok (i, rest) := by
  show decodeBytes (highByte (encode i) :: lowByte (encode i) :: rest) = _
  rw [decodeBytes, wordOfBytes_high_low, decodeWord_of_some (decode_encode i)]

/-- Settles O1: the word by its layout, the bytes by the word they make. -/
theorem decodeOfEncodeIsTheInstruction : Obligations.DecodeOfEncodeIsTheInstruction :=
  fun i rest => ⟨decode_encode i, decodeBytes_encodeBytes i rest⟩

/-! ### Encoding what was decoded: the fields of a word make it again -/

section Fields

variable {w : Word} {c : Nat} (hc : opClass w = c)
include hc

theorem classWord_opNNN : classWord c (opNNN w).toNat = w := by
  rw [opClass_eq] at hc
  apply BitVec.eq_of_toNat_eq
  have := w.isLt
  rw [opNNN_toNat, classWord_toNat (by omega) (by omega)]; omega

theorem encodeXNN_fields : encodeXNN c (opX w) (opNN w) = w := by
  rw [opClass_eq] at hc
  apply BitVec.eq_of_toNat_eq
  have := w.isLt
  rw [encodeXNN_toNat (by omega), opX_val, opNN_toNat]; omega

theorem encodeXYN_fields {n : Nat} (hn : (opN w).val = n) : encodeXYN c (opX w) (opY w) n = w := by
  rw [opClass_eq] at hc
  rw [opN_val] at hn
  apply BitVec.eq_of_toNat_eq
  have := w.isLt
  rw [encodeXYN_toNat (by omega) (by omega), opX_val, opY_val]; omega

theorem encodeXSS_fields {b : Nat} (hb : (opNN w).toNat = b) : encodeXSS c (opX w) b = w := by
  rw [opClass_eq] at hc
  rw [opNN_toNat] at hb
  apply BitVec.eq_of_toNat_eq
  have := w.isLt
  rw [encodeXSS_toNat (by omega) (by omega), opX_val]; omega

end Fields

theorem encode_of_decodeClass0 {w : Word} {i : Instr} (h : decodeClass0 w = some i) : encode i = w := by
  unfold decodeClass0 at h
  split at h
  · rename_i hw; cases h; exact (BitVec.eq_of_toNat_eq hw).symm
  · split at h
    · rename_i hw; cases h; exact (BitVec.eq_of_toNat_eq hw).symm
    · cases h

theorem encode_of_decodeClass8 {w : Word} {i : Instr} (hc : opClass w = 0x8) (h : decodeClass8 w = some i) :
    encode i = w := by
  unfold decodeClass8 at h
  split at h <;> cases h <;> exact encodeXYN_fields hc (by assumption)

theorem encode_of_decodeClassE {w : Word} {i : Instr} (hc : opClass w = 0xE) (h : decodeClassE w = some i) :
    encode i = w := by
  unfold decodeClassE at h
  split at h <;> cases h <;> exact encodeXSS_fields hc (by assumption)

theorem encode_of_decodeClassF {w : Word} {i : Instr} (hc : opClass w = 0xF) (h : decodeClassF w = some i) :
    encode i = w := by
  unfold decodeClassF at h
  split at h <;> cases h <;> exact encodeXSS_fields hc (by assumption)

/-- A word has one of the sixteen classes. -/
theorem opClass_lt (w : Word) : opClass w < 16 := Nat.mod_lt _ (by decide)

/-- One case per class digit: the operands read from the word and the digits of its pattern make it again. -/
theorem encode_of_decode {w : Word} {i : Instr} (h : decode w = some i) : encode i = w := by
  have lt := opClass_lt w
  generalize hc : opClass w = c at lt
  interval_cases c
  · exact encode_of_decodeClass0 (decode_class0 hc ▸ h)
  · cases (decode_class1 hc).symm.trans h; exact classWord_opNNN hc
  · cases (decode_class2 hc).symm.trans h; exact classWord_opNNN hc
  · cases (decode_class3 hc).symm.trans h; exact encodeXNN_fields hc
  · cases (decode_class4 hc).symm.trans h; exact encodeXNN_fields hc
  · rw [decode_class5 hc, Option.ite_none_right_eq_some] at h
    obtain ⟨hn, hi⟩ := h
    cases hi; exact encodeXYN_fields hc hn
  · cases (decode_class6 hc).symm.trans h; exact encodeXNN_fields hc
  · cases (decode_class7 hc).symm.trans h; exact encodeXNN_fields hc
  · exact encode_of_decodeClass8 hc (decode_class8 hc ▸ h)
  · rw [decode_class9 hc, Option.ite_none_right_eq_some] at h
    obtain ⟨hn, hi⟩ := h
    cases hi; exact encodeXYN_fields hc hn
  · cases (decode_classA hc).symm.trans h; exact classWord_opNNN hc
  · cases (decode_classB hc).symm.trans h; exact classWord_opNNN hc
  · cases (decode_classC hc).symm.trans h; exact encodeXNN_fields hc
  · cases (decode_classD hc).symm.trans h; exact encodeXYN_fields hc rfl
  · exact encode_of_decodeClassE hc (decode_classE hc ▸ h)
  · exact encode_of_decodeClassF hc (decode_classF hc ▸ h)

/-- Settles O2: class by class, the fields of the word are the operands and make it again. -/
theorem encodeOfDecodedWordIsTheWord : Obligations.EncodeOfDecodedWordIsTheWord :=
  fun _ _ h => encode_of_decode h

/-! ### The opcode map (R97): the bits a row fixes determine the fields it names -/

theorem opClass_of_masked {w p : Word} (h : w &&& 0xF000 = p) : opClass w = opClass p := by
  rw [← h, and_mask_class, opClass_eq, opClass_eq, BitVec.toNat_ofNat]; omega

theorem fields_of_masked_nibble {w p : Word} (h : w &&& 0xF00F = p) : opClass w = opClass p ∧ opN w = opN p := by
  rw [← h, and_mask_nibble, opClass_eq, opClass_eq, Fin.ext_iff, opN_val, opN_val, BitVec.toNat_ofNat]; omega

theorem fields_of_masked_byte {w p : Word} (h : w &&& 0xF0FF = p) : opClass w = opClass p ∧ opNN w = opNN p := by
  rw [← h, and_mask_byte, opClass_eq, opClass_eq, ← BitVec.toNat_inj, opNN_toNat, opNN_toNat, BitVec.toNat_ofNat]; omega

/-- The word of every instruction selects the row the instruction stands in. -/
theorem rowOf_selects_encode (i : Instr) : (rowOf i).selects (encode i) = true := by
  cases i with
  | cls => exact Laws.RowSelects.cls
  | ret => exact Laws.RowSelects.ret
  | jp nnn => exact Laws.RowSelects.jp nnn
  | call nnn => exact Laws.RowSelects.call nnn
  | seImm x nn => exact Laws.RowSelects.seImm x nn
  | sneImm x nn => exact Laws.RowSelects.sneImm x nn
  | seReg x y => exact Laws.RowSelects.seReg x y
  | ldImm x nn => exact Laws.RowSelects.ldImm x nn
  | addImm x nn => exact Laws.RowSelects.addImm x nn
  | ldReg x y => exact Laws.RowSelects.ldReg x y
  | orReg x y => exact Laws.RowSelects.orReg x y
  | andReg x y => exact Laws.RowSelects.andReg x y
  | xorReg x y => exact Laws.RowSelects.xorReg x y
  | addReg x y => exact Laws.RowSelects.addReg x y
  | sub x y => exact Laws.RowSelects.sub x y
  | shr x y => exact Laws.RowSelects.shr x y
  | subn x y => exact Laws.RowSelects.subn x y
  | shl x y => exact Laws.RowSelects.shl x y
  | sneReg x y => exact Laws.RowSelects.sneReg x y
  | ldI nnn => exact Laws.RowSelects.ldI nnn
  | jpV0 nnn => exact Laws.RowSelects.jpV0 nnn
  | rnd x nn => exact Laws.RowSelects.rnd x nn
  | drw x y n => exact Laws.RowSelects.drw x y n
  | skp x => exact Laws.RowSelects.skp x
  | sknp x => exact Laws.RowSelects.sknp x
  | ldVxDt x => exact Laws.RowSelects.ldVxDt x
  | ldVxK x => exact Laws.RowSelects.ldVxK x
  | ldDtVx x => exact Laws.RowSelects.ldDtVx x
  | ldStVx x => exact Laws.RowSelects.ldStVx x
  | addI x => exact Laws.RowSelects.addI x
  | ldF x => exact Laws.RowSelects.ldF x
  | ldB x => exact Laws.RowSelects.ldB x
  | ldMemVx x => exact Laws.RowSelects.ldMemVx x
  | ldVxMem x => exact Laws.RowSelects.ldVxMem x

theorem rowOf_selects_of_decode {w : Word} {i : Instr} (h : decode w = some i) : (rowOf i).selects w = true :=
  encode_of_decode h ▸ rowOf_selects_encode i

theorem rowOf_selects_iff (j : Instr) (w : Word) :
    (rowOf j).selects w = true ↔ w &&& (rowOf j).mask = (rowOf j).pattern := beq_iff_eq

/-- A word that selects a row decodes to an instruction of that row: the fixed bits give the class digit and, where the row
fixes it, the sub-opcode. -/
theorem row_of_decode_of_selects {w : Word} (j : Instr) (h : (rowOf j).selects w = true) :
    (decode w).map rowOf = some (rowOf j) := by
  rw [rowOf_selects_iff] at h
  cases j <;> dsimp only [rowOf] at h ⊢
  case cls | ret =>
    have hw : w = _ := (BitVec.and_allOnes (x := w)).symm.trans h
    rw [hw]; rfl
  case jp nnn => rw [decode_class1 (opClass_of_masked h)]; rfl
  case call nnn => rw [decode_class2 (opClass_of_masked h)]; rfl
  case seImm x nn => rw [decode_class3 (opClass_of_masked h)]; rfl
  case sneImm x nn => rw [decode_class4 (opClass_of_masked h)]; rfl
  case ldImm x nn => rw [decode_class6 (opClass_of_masked h)]; rfl
  case addImm x nn => rw [decode_class7 (opClass_of_masked h)]; rfl
  case ldI nnn => rw [decode_classA (opClass_of_masked h)]; rfl
  case jpV0 nnn => rw [decode_classB (opClass_of_masked h)]; rfl
  case rnd x nn => rw [decode_classC (opClass_of_masked h)]; rfl
  case drw x y n => rw [decode_classD (opClass_of_masked h)]; rfl
  case seReg x y =>
    obtain ⟨hc, hn⟩ := fields_of_masked_nibble h
    rw [decode_class5 hc, hn]; rfl
  case sneReg x y =>
    obtain ⟨hc, hn⟩ := fields_of_masked_nibble h
    rw [decode_class9 hc, hn]; rfl
  case ldReg x y | orReg x y | andReg x y | xorReg x y | addReg x y | sub x y | shr x y | subn x y | shl x y =>
    obtain ⟨hc, hn⟩ := fields_of_masked_nibble h
    rw [decode_class8 hc, decodeClass8, hn]; rfl
  case skp x | sknp x =>
    obtain ⟨hc, hb⟩ := fields_of_masked_byte h
    rw [decode_classE hc, decodeClassE, hb]; rfl
  case ldVxDt x | ldVxK x | ldDtVx x | ldStVx x | addI x | ldF x | ldB x | ldMemVx x | ldVxMem x =>
    obtain ⟨hc, hb⟩ := fields_of_masked_byte h
    rw [decode_classF hc, decodeClassF, hb]; rfl

theorem rowOf_mem_opcodeRows (i : Instr) : rowOf i ∈ opcodeRows := by
  cases i <;> simp [opcodeRows, sampleInstrs, rowOf]

/-- The rows are those of instructions. -/
theorem exists_rowOf_of_mem {r : OpcodeRow} (h : r ∈ opcodeRows) : ∃ j, r = rowOf j := by
  obtain ⟨j, _, hj⟩ := List.mem_map.1 h
  exact ⟨j, hj.symm⟩

theorem row_of_decode_of_mem {w : Word} {r : OpcodeRow} (hr : r ∈ opcodeRows) (h : r.selects w = true) :
    (decode w).map rowOf = some r := by
  obtain ⟨j, rfl⟩ := exists_rowOf_of_mem hr
  exact row_of_decode_of_selects j h

/-- Settles O3: a word that decodes is the encoding of an instruction, which selects that instruction's row; a word that
selects a row has the fields of that row. -/
theorem decoderFollowsTheOpcodeMap : Obligations.DecoderFollowsTheOpcodeMap := by
  refine ⟨fun w => Bool.eq_iff_iff.2 ?_, fun _ _ => rowOf_selects_of_decode⟩
  rw [List.any_eq_true, Option.isSome_iff_exists]
  constructor
  · rintro ⟨i, hi⟩
    exact ⟨rowOf i, rowOf_mem_opcodeRows i, rowOf_selects_of_decode hi⟩
  · rintro ⟨r, hr, hs⟩
    obtain ⟨i, hi, _⟩ := Option.map_eq_some_iff.1 (row_of_decode_of_mem hr hs)
    exact ⟨i, hi⟩

/-- Settles O4: a row that a word selects is the row of what the word decodes to. -/
theorem noWordSelectsTwoRows : Obligations.NoWordSelectsTwoRows :=
  ⟨rfl, fun _ _ _ hr hq sr sq =>
    Option.some.inj ((row_of_decode_of_mem hr sr).symm.trans (row_of_decode_of_mem hq sq))⟩

/-! ### The undefined words (R98) -/

theorem decodeClass0_eq_none (w : Word) : decodeClass0 w = none ↔ w.toNat ≠ 0x00E0 ∧ w.toNat ≠ 0x00EE := by
  unfold decodeClass0
  split_ifs <;> simp_all

theorem decodeClass8_eq_none (w : Word) :
    decodeClass8 w = none ↔ w.toNat % 16 ∈ [0x8, 0x9, 0xA, 0xB, 0xC, 0xD, 0xF] := by
  have lt := (opN w).isLt
  rw [decodeClass8, ← opN_val]
  generalize (opN w).val = n at lt
  interval_cases n <;> simp

theorem decodeClassE_eq_none (w : Word) : decodeClassE w = none ↔ w.toNat % 256 ∉ [0x9E, 0xA1] := by
  rw [← opNN_toNat]
  unfold decodeClassE
  split <;> simp_all

theorem decodeClassF_eq_none (w : Word) :
    decodeClassF w = none ↔ w.toNat % 256 ∉ [0x07, 0x0A, 0x15, 0x18, 0x1E, 0x29, 0x33, 0x55, 0x65] := by
  rw [← opNN_toNat]
  unfold decodeClassF
  split <;> simp_all

theorem ite_low_nibble_eq_none (w : Word) (i : Instr) :
    (if (opN w).val = 0 then some i else none) = none ↔ 1 ≤ w.toNat % 16 := by
  rw [opN_val, Nat.one_le_iff_ne_zero]
  split_ifs <;> simp_all

/-- Settles O5: class by class, the words the class's own decoder rejects; the ten classes not listed reject none. -/
theorem undefinedWordsAreTheListedOnes : Obligations.UndefinedWordsAreTheListedOnes := by
  intro w
  rw [← opClass_eq]
  have lt := opClass_lt w
  generalize hc : opClass w = c at lt
  interval_cases c
  · simp [decode_class0 hc, decodeClass0_eq_none]
  · simp [decode_class1 hc]
  · simp [decode_class2 hc]
  · simp [decode_class3 hc]
  · simp [decode_class4 hc]
  · simp only [decode_class5 hc, ite_low_nibble_eq_none]; simp
  · simp [decode_class6 hc]
  · simp [decode_class7 hc]
  · simp [decode_class8 hc, decodeClass8_eq_none]
  · simp only [decode_class9 hc, ite_low_nibble_eq_none]; simp
  · simp [decode_classA hc]
  · simp [decode_classB hc]
  · simp [decode_classC hc]
  · simp [decode_classD hc]
  · simp [decode_classE hc, decodeClassE_eq_none]
  · simp [decode_classF hc, decodeClassF_eq_none]

/-- Settles O6: nine of the words are encodings, and the other two are class 5 with a low nibble of 1 and a word of class 0
that is neither CLS nor RET. -/
theorem sampleWordsDecodeAsWritten : Obligations.SampleWordsDecodeAsWritten :=
  ⟨decode_encode .ret, decode_encode (.jp 0x234), decode_encode (.seImm 0xA 0x05), decode_encode (.addReg 0xA 0xB),
    decode_encode (.rnd 0x3 0x0F), decode_encode (.ldMemVx 0x2), decode_encode (.drw 0x1 0x2 0x5), decode_encode (.skp 0x1),
    decode_encode (.ldDtVx 0x3), (undefinedWordsAreTheListedOnes 0x5121).2 (by decide),
    (undefinedWordsAreTheListedOnes 0x01E0).2 (by decide)⟩

end Sys2Proof
end

section
/-! Proofs of spec/40_control.md: the call and the return (R121, R123, R233). -/

namespace Sys2Proof.Machine

open Sys2Proof.Safety

namespace State

/-! ### The stack's depth -/

theorem stackFull_iff (s : State) : s.stackFull = true ↔ ∃ d, s.params.stackDepth = some d ∧ d ≤ s.stack.length := by
  unfold stackFull
  split <;> simp_all

/-! ### A stack update that ends in a jump, in the terms of the obligations' frame -/

theorem setStack_setPc_keepsRegs (s : State) (l : List Word) (w : Word) : KeepsRegsBut [] s ((s.setStack l).setPc w) :=
  fun k _ => getV_congr ((setPc_V _ w).trans (setStack_V s l)) k

/-- A stack update and a jump leave every part of the state but the stack and `pc` alone. -/
theorem setStack_setPc_keepsAllBut (s : State) (l : List Word) (w : Word) :
    KeepsAllBut [.stack] s ((s.setStack l).setPc w) := by
  intro p hp
  cases p with
  | stack => exact absurd (List.mem_singleton_self _) hp
  | mem => exact readByte_congr ((setPc_mem _ w).trans (setStack_mem s l))
  | _ => rfl

end State

/-! ### The meanings of the call and the return, case by case -/

theorem exec_call_of_room {s : State} (room : s.stackFull = false) (nnn : Addr12) :
    exec (.call nnn) s = .next ((s.push s.pc).setPc (zextAddr nnn)) := by
  show execCall nnn s = _
  rw [execCall, room, if_neg Bool.false_ne_true]

theorem exec_call_of_full {s : State} (full : s.stackFull = true) (nnn : Addr12) :
    exec (.call nnn) s = .next (s.raise .stackOverflow) := by
  show execCall nnn s = _
  rw [execCall, full, if_pos rfl]

theorem exec_ret_of_nil {s : State} (empty : s.stack = []) : exec .ret s = .next (s.raise .stackUnderflow) := by
  show execRet s = _
  rw [execRet, empty]

theorem exec_ret_of_cons {s : State} {a : Word} {rest : List Word} (top : s.stack = a :: rest) :
    exec .ret s = .next ((s.setStack rest).setPc (a + 2)) := by
  show execRet s = _
  rw [execRet, top]

/-- Everything a call can do. -/
theorem exec_call_cases {s t : State} {nnn : Addr12} (h : exec (.call nnn) s = .next t) :
    (s.stackFull = false ∧ t = (s.push s.pc).setPc (zextAddr nnn)) ∨
    (s.stackFull = true ∧ t = s.raise .stackOverflow) := by
  cases full : s.stackFull with
  | false => exact .inl ⟨rfl, (Host.Outcome.next.inj ((exec_call_of_room full nnn).symm.trans h)).symm⟩
  | true => exact .inr ⟨rfl, (Host.Outcome.next.inj ((exec_call_of_full full nnn).symm.trans h)).symm⟩

/-- Everything a return can do. -/
theorem exec_ret_cases {s t : State} (h : exec .ret s = .next t) :
    (s.stack = [] ∧ t = s.raise .stackUnderflow) ∨
    (∃ a rest, s.stack = a :: rest ∧ t = (s.setStack rest).setPc (a + 2)) := by
  cases top : s.stack with
  | nil => exact .inl ⟨rfl, (Host.Outcome.next.inj ((exec_ret_of_nil top).symm.trans h)).symm⟩
  | cons a rest => exact .inr ⟨a, rest, rfl, (Host.Outcome.next.inj ((exec_ret_of_cons top).symm.trans h)).symm⟩

/-- Settles O27: the stack has room exactly when no finite depth is reached. -/
theorem callPushesItsOwnAddress : Obligations.CallPushesItsOwnAddress := by
  intro nnn s
  constructor
  · intro below
    have room : s.stackFull = false := by
      rw [← Bool.not_eq_true, State.stackFull_iff]
      rintro ⟨d, hd, hle⟩
      exact absurd (below d hd) (by omega)
    exact ⟨_, exec_call_of_room room nnn, zextAddr_toNat nnn, rfl, s.setStack_setPc_keepsRegs _ _,
      s.setStack_setPc_keepsAllBut _ _⟩
  · intro d hd hle
    exact exec_call_of_full (s.stackFull_iff.2 ⟨d, hd, hle⟩) nnn

/-- Settles O28: a return pops, or raises on an empty stack. -/
theorem returnPopsAndAddsTwo : Obligations.ReturnPopsAndAddsTwo := fun s =>
  ⟨fun a _ top => ⟨_, exec_ret_of_cons top, BitVec.toNat_add a 2, rfl, s.setStack_setPc_keepsRegs _ _,
    s.setStack_setPc_keepsAllBut _ _⟩, exec_ret_of_nil⟩

/-- Settles O29: a call that did not halt pushed the address of the call, and the return pops it. -/
theorem returnResumesAfterTheCall : Obligations.ReturnResumesAfterTheCall := by
  intro nnn s t u v running hcall hstack hret
  obtain ⟨-, rfl⟩ | ⟨-, rfl⟩ := exec_call_cases hcall
  · have back := (exec_ret_of_cons hstack).symm.trans hret
    obtain rfl := Host.Outcome.next.inj back
    exact ⟨rfl, rfl⟩
  · cases running

end Sys2Proof.Machine
end

section
/-! Proofs of spec/41_alu.md: the logic (R144 to R146), the arithmetic and shifts that write VF (R147 to R151) and the random
byte (R153). -/

namespace Sys2Proof.Machine

open Sys2Proof.Safety

/-! ### The flags as numbers (R26) -/

@[simp] theorem flagByte_toNat (c : Bool) : (flagByte c).toNat = c.toNat := by cases c <;> rfl

theorem carryFlag_toNat (a b : Byte) : (carryFlag a b).toNat = if a.toNat + b.toNat > 255 then 1 else 0 := by
  rw [carryFlag, flagByte_toNat, Bool.toNat, Bool.cond_decide]

theorem greaterFlag_toNat (a b : Byte) : (greaterFlag a b).toNat = if a.toNat > b.toNat then 1 else 0 := by
  rw [greaterFlag, flagByte_toNat, Bool.toNat, Bool.cond_decide]

/-- The bit a right shift loses (R149). -/
theorem lowBitFlag_toNat (a : Byte) : (lowBitFlag a).toNat = a.toNat % 2 := by
  rw [lowBitFlag, flagByte_toNat, ← BitVec.testBit_toNat, Nat.toNat_testBit, pow_zero, Nat.div_one]

/-- The bit a left shift loses (R151). -/
theorem highBitFlag_toNat (a : Byte) : (highBitFlag a).toNat = a.toNat / 128 := by
  have := a.isLt
  rw [highBitFlag, flagByte_toNat, ← BitVec.testBit_toNat, Nat.toNat_testBit]; omega

/-! ### The meanings, by their state operation -/

theorem exec_orReg (x y : Reg) (s : State) : exec (.orReg x y) s = .next (s.setV x (s.getV x ||| s.getV y)).advance := rfl

theorem exec_andReg (x y : Reg) (s : State) : exec (.andReg x y) s = .next (s.setV x (s.getV x &&& s.getV y)).advance := rfl

theorem exec_xorReg (x y : Reg) (s : State) : exec (.xorReg x y) s = .next (s.setV x (s.getV x ^^^ s.getV y)).advance := rfl

theorem exec_addReg (x y : Reg) (s : State) :
    exec (.addReg x y) s = .next (s.writeFlagged x (carryFlag (s.getV x) (s.getV y)) (s.getV x + s.getV y)).advance := rfl

theorem exec_sub (x y : Reg) (s : State) :
    exec (.sub x y) s = .next (s.writeFlagged x (greaterFlag (s.getV x) (s.getV y)) (s.getV x - s.getV y)).advance := rfl

theorem exec_subn (x y : Reg) (s : State) :
    exec (.subn x y) s = .next (s.writeFlagged x (greaterFlag (s.getV y) (s.getV x)) (s.getV y - s.getV x)).advance := rfl

theorem exec_shr (x y : Reg) (s : State) :
    exec (.shr x y) s = s.shiftOutcome (s.writeFlagged x (lowBitFlag (s.getV x)) (s.getV x >>> 1)).advance := rfl

theorem exec_shl (x y : Reg) (s : State) :
    exec (.shl x y) s = s.shiftOutcome (s.writeFlagged x (highBitFlag (s.getV x)) (s.getV x <<< 1)).advance := rfl

theorem exec_rnd (x : Reg) (nn : Byte) (s : State) :
    exec (.rnd x nn) s = .next (s.countDraw.setV x (s.nextRandom &&& nn)).advance := rfl

namespace State

/-- With `SHIFT_USES_VY` true a shift is refused by name (R149, R151). -/
theorem shiftOutcome_refused {s : State} (h : s.params.shiftUsesVy = true) (t : State) :
    s.shiftOutcome t = .refused .shiftVariant := by
  rw [shiftOutcome, h, if_pos rfl]

/-! ### A flag-writing instruction's write-back, in the terms of the obligations -/

/-- The result stands in `V[x]`, also when `x` is F: it is written after the flag (R10). -/
theorem writeFlagged_advance_getV (s : State) (x : Reg) (f r : Byte) : (s.writeFlagged x f r).advance.getV x = r :=
  (s.setV VF f).setV_advance_getV x r

theorem writeFlagged_advance_getV_VF (s : State) {x : Reg} (f r : Byte) (hx : x ≠ VF) :
    (s.writeFlagged x f r).advance.getV VF = f :=
  (getV_congr (advance_V _) VF).trans ((getV_setV_ne _ r hx.symm).trans (getV_setV_same s VF f))

theorem writeFlagged_advance_keepsRegs (s : State) (x : Reg) (f r : Byte) :
    KeepsRegsBut [x, VF] s (s.writeFlagged x f r).advance := by
  intro k hk
  have hx : k ≠ x := fun e => hk (by simp [e])
  have hf : k ≠ VF := fun e => hk (by simp [e])
  exact (getV_congr (advance_V _) k).trans ((getV_setV_ne _ r hx).trans (getV_setV_ne s f hf))

theorem writeFlagged_advance_keepsAllBut (s : State) (x : Reg) (f r : Byte) :
    KeepsAllBut [] s (s.writeFlagged x f r).advance := by
  intro p _
  cases p with
  | mem => exact readByte_congr ((advance_mem _).trans ((setV_mem _ x r).trans (setV_mem s VF f)))
  | _ => rfl

end State

/-- What an instruction whose meaning is one flag-writing write-back does, with the result and the flag in numbers. -/
theorem exec_writeFlagged_spec {i : Instr} {s : State} {x : Reg} {f r : Byte} {result flag : Nat}
    (meaning : exec i s = .next (s.writeFlagged x f r).advance) (hr : r.toNat = result) (hf : f.toNat = flag) :
    ∃ t, exec i s = .next t ∧ (t.getV x).toNat = result ∧ (x ≠ VF → (t.getV VF).toNat = flag) ∧
      t.pc = s.pc + 2 ∧ KeepsRegsBut [x, VF] s t ∧ KeepsAllBut [] s t := by
  refine ⟨_, meaning, ?_, fun hx => ?_, State.advance_pc _, s.writeFlagged_advance_keepsRegs x f r,
    s.writeFlagged_advance_keepsAllBut x f r⟩
  · rw [s.writeFlagged_advance_getV, hr]
  · rw [s.writeFlagged_advance_getV_VF f r hx, hf]

/-- Settles O32: each of the three is one register write with no flag, so its frame keeps VF unless it is `x`. -/
theorem logicIsBitwiseAndKeepsVF : Obligations.LogicIsBitwiseAndKeepsVF := by
  intro x y s
  obtain ⟨t, orRun, orValue, orFrame⟩ := exec_setV_spec (exec_orReg x y s)
  obtain ⟨u, andRun, andValue, andFrame⟩ := exec_setV_spec (exec_andReg x y s)
  obtain ⟨v, xorRun, xorValue, xorFrame⟩ := exec_setV_spec (exec_xorReg x y s)
  exact ⟨⟨t, orRun, fun j => by rw [orValue, BitVec.getLsbD_or], orFrame⟩,
    ⟨u, andRun, fun j => by rw [andValue, BitVec.getLsbD_and], andFrame⟩,
    ⟨v, xorRun, fun j => by rw [xorValue, BitVec.getLsbD_xor], xorFrame⟩⟩

/-- Settles O33: the sum of two bytes wraps modulo 256, and the flag is its carry. -/
theorem addSetsCarry : Obligations.AddSetsCarry := fun x y s =>
  exec_writeFlagged_spec (exec_addReg x y s) (BitVec.toNat_add _ _) (carryFlag_toNat _ _)

/-- A difference of bytes wraps modulo 256. -/
theorem byte_sub_toNat (a b : Byte) : (a - b).toNat = (a.toNat + 256 - b.toNat) % 256 := by
  have := b.isLt
  rw [BitVec.toNat_sub]; omega

/-- Settles O34: the two subtractions differ in which operand is the minuend. -/
theorem subtractionsSetStrictlyGreater : Obligations.SubtractionsSetStrictlyGreater := fun x y s =>
  ⟨exec_writeFlagged_spec (exec_sub x y s) (byte_sub_toNat _ _) (greaterFlag_toNat _ _),
    exec_writeFlagged_spec (exec_subn x y s) (byte_sub_toNat _ _) (greaterFlag_toNat _ _)⟩

/-- Settles O35: where `y` is ignored a shift is one flag-writing write-back, elsewhere it is refused. -/
theorem shiftsLoseOneBitToVF : Obligations.ShiftsLoseOneBitToVF := by
  intro x y s
  refine ⟨fun variant => ⟨State.shiftOutcome_refused variant _, State.shiftOutcome_refused variant _⟩,
    fun plain => ?_, fun plain => ?_⟩
  · exact exec_writeFlagged_spec ((exec_shr x y s).trans (State.shiftOutcome_next.2 ⟨plain, rfl⟩))
      (by rw [BitVec.toNat_ushiftRight, Nat.shiftRight_one]) (lowBitFlag_toNat _)
  · exact exec_writeFlagged_spec ((exec_shl x y s).trans (State.shiftOutcome_next.2 ⟨plain, rfl⟩))
      (by rw [BitVec.toNat_shiftLeft, Nat.shiftLeft_eq, pow_one]) (highBitFlag_toNat _)

/-! ### The random byte -/

namespace State

theorem countDraw_setV_advance_keepsRegs (s : State) (x : Reg) (v : Byte) :
    KeepsRegsBut [x] s (s.countDraw.setV x v).advance :=
  fun k hk => (s.countDraw.setV_advance_keepsRegs x v k hk).trans (getV_congr (countDraw_V s) k)

/-- One draw and a register write leave every part of the state but the draw count, the registers and `pc` alone. -/
theorem countDraw_setV_advance_keepsAllBut (s : State) (x : Reg) (v : Byte) :
    KeepsAllBut [.draws] s (s.countDraw.setV x v).advance := by
  intro p hp
  cases p with
  | draws => exact absurd (List.mem_singleton_self _) hp
  | mem => exact readByte_congr ((advance_mem _).trans ((setV_mem _ x v).trans (countDraw_mem s)))
  | _ => rfl

end State

/-- Settles O36: the masked byte is written whole, and a mask of 0 keeps no bit. -/
theorem randomByteIsMasked : Obligations.RandomByteIsMasked := by
  intro x nn s
  have value : (s.countDraw.setV x (s.nextRandom &&& nn)).advance.getV x = Config.randomByte s.draws &&& nn :=
    s.countDraw.setV_advance_getV x _
  refine ⟨_, exec_rnd x nn s, fun j => by rw [value, BitVec.getLsbD_and], fun h => ?_, rfl, State.advance_pc _,
    s.countDraw_setV_advance_keepsRegs x _, s.countDraw_setV_advance_keepsAllBut x _⟩
  rw [value, h]; exact BitVec.and_zero

end Sys2Proof.Machine
end

section
/-! Frames as relations between states: what is left unchanged by two updates in a row, and by the advance of `pc`. -/

namespace Sys2Proof.Safety

open Sys2Proof.Machine Sys2Proof.Machine.State

theorem Part.same_trans {s t u : State} {p : Part} (h : Part.same s t p) (g : Part.same t u p) : Part.same s u p := by
  cases p with
  | mem => exact fun a => (g a).trans (h a)
  | _ => exact g.trans h

theorem KeepsAllBut.mono {ps qs : List Part} {s t : State} (h : KeepsAllBut ps s t) (hpq : ps ⊆ qs) : KeepsAllBut qs s t :=
  fun p hp => h p (fun hm => hp (hpq hm))

theorem KeepsAllBut.trans {ps : List Part} {s t u : State} (h : KeepsAllBut ps s t) (g : KeepsAllBut ps t u) :
    KeepsAllBut ps s u :=
  fun p hp => Part.same_trans (h p hp) (g p hp)

theorem KeepsAllBut.refl (ps : List Part) (s : State) : KeepsAllBut ps s s := by
  intro p _
  cases p with
  | mem => exact fun _ => rfl
  | _ => rfl

theorem KeepsAllBut.advance {ps : List Part} {s t : State} (h : KeepsAllBut ps s t) : KeepsAllBut ps s t.advance :=
  h.trans ((setPc_keepsAllBut t _).mono (List.nil_subset ps))

theorem KeepsRegsBut.trans {xs : List Reg} {s t u : State} (h : KeepsRegsBut xs s t) (g : KeepsRegsBut xs t u) :
    KeepsRegsBut xs s u :=
  fun k hk => (g k hk).trans (h k hk)

theorem KeepsRegsBut.mono {xs ys : List Reg} {s t : State} (h : KeepsRegsBut xs s t) (hxy : xs ⊆ ys) :
    KeepsRegsBut ys s t :=
  fun k hk => h k (fun hm => hk (hxy hm))

theorem KeepsRegsBut.advance {xs : List Reg} {s t : State} (h : KeepsRegsBut xs s t) : KeepsRegsBut xs s t.advance :=
  h.trans ((setPc_keepsRegs t _).mono (List.nil_subset xs))

/-- An update that leaves the whole register file leaves every register. -/
theorem keepsRegs_of_V_eq {s t : State} (h : t.V = s.V) : KeepsRegsBut [] s t := fun k _ => getV_congr h k

end Sys2Proof.Safety
end

section
/-! Proofs of spec/42_index_memory.md: the add to the index register (R172), the decimal digits (R174), the stores and loads
of a run of registers (R175, R176); and of spec/20_memory.md: the canonical form (R60), the coherence of store and fetch
(R76). -/

namespace Sys2Proof.Machine

open Sys2Proof.Safety

/-! ### The index register's add -/

theorem exec_addI (x : Reg) (s : State) : exec (.addI x) s = .next (s.setI (s.I + zext16 (s.getV x))).advance := rfl

/-- Settles O38: the instruction is one write of `I`, of the 16-bit sum. -/
theorem indexAddWraps : Obligations.IndexAddWraps := fun x s =>
  exec_setI_spec (exec_addI x s) (by rw [BitVec.toNat_add, zext16_toNat])

/-! ### The canonical form of memory -/

theorem Memory.wfFrom_cons {lo k : Nat} {v : Byte} {rest : Memory} :
    Memory.wfFrom lo ((k, v) :: rest) = true ↔
      lo ≤ k ∧ k < Config.memSize ∧ v ≠ Memory.unlisted ∧ Memory.wfFrom (k + 1) rest = true := by
  simp only [Memory.wfFrom, Bool.and_eq_true, decide_eq_true_eq, and_assoc]

/-- A read at the first listed address gives that entry's byte. -/
theorem Memory.read_head {k : Nat} {v : Byte} {rest : Memory} : Memory.read ((k, v) :: rest) k = v := by
  rw [Memory.read_cons, if_pos rfl]

/-- A canonical list that reads at `k` as a listed byte does not begin after `k`. -/
theorem Memory.head_le_of_read_ne {lo k j : Nat} {v : Byte} {rest : Memory}
    (hw : Memory.wfFrom lo ((j, v) :: rest) = true) (h : Memory.read ((j, v) :: rest) k ≠ Memory.unlisted) : j ≤ k := by
  obtain ⟨-, bound, listed, tail⟩ := Memory.wfFrom_cons.1 hw
  by_contra lt
  have fromHead : Memory.wfFrom j ((j, v) :: rest) = true := Memory.wfFrom_cons.2 ⟨le_rfl, bound, listed, tail⟩
  exact h (Memory.read_below (by omega) fromHead)

/-- Two canonical lists that read alike begin with the same entry, so their tails read alike too. -/
theorem Memory.eq_of_read_eq {lo : Nat} {m n : Memory} (hm : Memory.wfFrom lo m = true) (hn : Memory.wfFrom lo n = true)
    (h : ∀ a, Memory.read m a = Memory.read n a) : m = n := by
  induction m generalizing lo n with
  | nil =>
    cases n with
    | nil => rfl
    | cons c rest =>
      obtain ⟨-, -, listed, -⟩ := Memory.wfFrom_cons.1 hn
      exact absurd ((h c.1).trans Memory.read_head).symm listed
  | cons c rest ih =>
    obtain ⟨k, v⟩ := c
    obtain ⟨-, -, listed, tail⟩ := Memory.wfFrom_cons.1 hm
    cases n with
    | nil => exact absurd (Memory.read_head.symm.trans (h k)) listed
    | cons d rest' =>
      obtain ⟨j, w⟩ := d
      obtain ⟨-, -, listed', tail'⟩ := Memory.wfFrom_cons.1 hn
      have jk : j ≤ k := Memory.head_le_of_read_ne hn (by rw [← h k, Memory.read_head]; exact listed)
      have kj : k ≤ j := Memory.head_le_of_read_ne hm (by rw [h j, Memory.read_head]; exact listed')
      obtain rfl : k = j := le_antisymm kj jk
      have value : v = w := Memory.read_head.symm.trans ((h k).trans Memory.read_head)
      have tails : rest = rest' := by
        refine ih tail tail' (fun a => ?_)
        by_cases below : a ≤ k
        · rw [Memory.read_below (by omega) tail, Memory.read_below (by omega) tail']
        · have ha := h a
          rwa [Memory.read_cons, Memory.read_cons, if_neg (by omega), if_neg (by omega)] at ha
      rw [value, tails]

/-- Settles O40: both lists are canonical from address 0 on. -/
theorem canonicalMemoriesAreEqual : Obligations.CanonicalMemoriesAreEqual :=
  fun _ _ hm hn h => Memory.eq_of_read_eq hm hn h

/-! ### A run of bytes stored -/

/-- The diagnostics of `n + 1` accesses, counted from the first. -/
theorem outOfRangeCount_cons (a n : Nat) :
    outOfRangeCount a (n + 1) = (if 4096 ≤ a then 1 else 0) + outOfRangeCount (a + 1) n := by
  induction n with
  | zero => rw [outOfRangeCount_succ, Nat.add_comm]; rfl
  | succ n ih => rw [outOfRangeCount_succ, ih, outOfRangeCount_succ, Nat.add_right_comm a 1 n, Nat.add_assoc, Nat.add_assoc]

namespace State

theorem writeBytes_diags (s : State) (a : Nat) (l : List Byte) :
    (s.writeBytes a l).diags = s.diags + outOfRangeCount a l.length := by
  induction l generalizing s a with
  | nil => rfl
  | cons v rest ih =>
    rw [writeBytes, ih, writeByte_diags, List.length_cons, outOfRangeCount_cons]
    split <;> omega

/-- Byte `k` of a run stored at `a` stands at `a + k`, if that is in range. -/
theorem readByte_writeBytes_of_getElem? (s : State) (hw : Memory.wf s.mem = true) {a k : Nat} {l : List Byte} {v : Byte}
    (hk : l[k]? = some v) (hr : a + k < 4096) : (s.writeBytes a l).readByte (a + k) = v := by
  rw [readByte_writeBytes s hw, if_pos ⟨Nat.le_add_right a k, hr⟩, Nat.add_sub_cancel_left, hk, Option.getD_some]

/-- A byte outside the run keeps its value. -/
theorem readByte_writeBytes_outside (s : State) (hw : Memory.wf s.mem = true) {a b : Nat} {l : List Byte}
    (hb : b < a ∨ a + l.length ≤ b) : (s.writeBytes a l).readByte b = s.readByte b := by
  rw [readByte_writeBytes s hw]
  split
  · rw [List.getElem?_eq_none (by omega), Option.getD_none]
  · rfl

theorem effAddr_eq (s : State) (k : Nat) : s.effAddr k = s.I.toNat + k := rfl

end State

/-! ### Fx33 -/

theorem hundreds_toNat (a : Byte) : (hundreds a).toNat = a.toNat / 100 := by
  have := a.isLt
  rw [hundreds, BitVec.toNat_ofNat]; omega

theorem tens_toNat (a : Byte) : (tens a).toNat = a.toNat / 10 % 10 := by
  rw [tens, BitVec.toNat_ofNat]; omega

theorem units_toNat (a : Byte) : (units a).toNat = a.toNat % 10 := by
  rw [units, BitVec.toNat_ofNat]; omega

theorem exec_ldB (x : Reg) (s : State) : exec (.ldB x) s =
    .next (s.writeBytes (s.effAddr 0) [hundreds (s.getV x), tens (s.getV x), units (s.getV x)]).advance := rfl

/-- Settles O41: the digits are a run of three bytes stored at `I`. -/
theorem decimalDigitsAreStored : Obligations.DecimalDigitsAreStored := by
  intro x s hw
  have frame := s.writeBytes_same (s.effAddr 0) [hundreds (s.getV x), tens (s.getV x), units (s.getV x)]
  refine ⟨_, exec_ldB x s, fun h => ?_, fun h => ?_, fun h => ?_, fun a h0 h1 h2 => ?_, rfl, rfl, rfl,
    s.writeBytes_diags _ _, congrArg (· + 2) frame.pc, frame.keepsRegs.advance, frame.keepsAllBut.advance⟩
  · rw [← hundreds_toNat]
    exact congrArg _ (s.readByte_writeBytes_of_getElem? hw (k := 0) rfl (Nat.lt_succ_of_le h))
  · rw [← tens_toNat]
    exact congrArg _ (s.readByte_writeBytes_of_getElem? hw (k := 1) rfl (Nat.lt_succ_of_le h))
  · rw [← units_toNat]
    exact congrArg _ (s.readByte_writeBytes_of_getElem? hw (k := 2) rfl (Nat.lt_succ_of_le h))
  · simp only [State.effAddr_eq] at h0 h1 h2
    exact s.readByte_writeBytes_outside hw (by simp only [State.effAddr_eq, List.length_cons, List.length_nil]; omega)

/-! ### Fx55 and Fx65: the run of registers -/

theorem regsUpTo_map_val (x : Reg) : (regsUpTo x).map Fin.val = List.range (x.val + 1) := by
  revert x; decide

/-- The diagnostics of one access for each register up to `x`. -/
theorem outOfRangeCount_regsUpTo (a : Nat) (x : Reg) :
    ((regsUpTo x).filter (fun k => decide (4096 ≤ a + k.val))).length = outOfRangeCount a (x.val + 1) := by
  rw [outOfRangeCount, ← regsUpTo_map_val, List.filter_map, List.length_map]; rfl

namespace State

theorem storeRegs_fold_diags (s u : State) (l : List Reg) :
    (l.foldl (fun t k => t.writeByte (s.effAddr k.val) (s.getV k)) u).diags =
      u.diags + (l.filter (fun k => decide (4096 ≤ s.I.toNat + k.val))).length := by
  induction l generalizing u with
  | nil => rfl
  | cons k rest ih =>
    rw [List.foldl_cons, ih, writeByte_diags, effAddr_eq]
    by_cases h : 4096 ≤ s.I.toNat + k.val <;> simp [h, Nat.add_assoc, Nat.add_comm 1]

theorem storeRegs_diags (s : State) (x : Reg) : (s.storeRegs x).diags = s.diags + outOfRangeCount s.I.toNat (x.val + 1) := by
  rw [storeRegs, storeRegs_fold_diags, outOfRangeCount_regsUpTo]

theorem loadRegs_fold_diags (s u : State) (l : List Reg) :
    (l.foldl (fun t k => (t.noteRead (s.effAddr k.val)).setV k (s.readByte (s.effAddr k.val))) u).diags =
      u.diags + (l.filter (fun k => decide (4096 ≤ s.I.toNat + k.val))).length := by
  induction l generalizing u with
  | nil => rfl
  | cons k rest ih =>
    rw [List.foldl_cons, ih, setV_diags, noteRead_eq, effAddr_eq]
    by_cases h : 4096 ≤ s.I.toNat + k.val <;> simp [h, Nat.add_assoc, Nat.add_comm 1]

theorem loadRegs_diags (s : State) (x : Reg) : (s.loadRegs x).diags = s.diags + outOfRangeCount s.I.toNat (x.val + 1) := by
  rw [loadRegs, loadRegs_fold_diags, outOfRangeCount_regsUpTo]

/-- A byte at none of the addresses of Fx55's loop keeps its value. -/
theorem readByte_storeRegs_fold_ne (s u : State) (hw : Memory.wf u.mem = true) (l : List Reg) {b : Nat}
    (hb : ∀ k ∈ l, b ≠ s.effAddr k.val) :
    (l.foldl (fun t k => t.writeByte (s.effAddr k.val) (s.getV k)) u).readByte b = u.readByte b := by
  induction l generalizing u with
  | nil => rfl
  | cons k rest ih =>
    rw [List.foldl_cons, ih _ (writeByte_wf u hw _ _) (fun j hj => hb j (List.mem_cons_of_mem k hj)),
      readByte_writeByte_ne u hw _ (hb k List.mem_cons_self)]

/-- The addresses of Fx55's loop differ, so a register stored is not stored over by a later one. -/
theorem readByte_storeRegs_fold_mem (s u : State) (hw : Memory.wf u.mem = true) (l : List Reg) {j : Reg} (hj : j ∈ l)
    (hr : s.effAddr j.val < 4096) :
    (l.foldl (fun t k => t.writeByte (s.effAddr k.val) (s.getV k)) u).readByte (s.effAddr j.val) = s.getV j := by
  induction l generalizing u with
  | nil => cases hj
  | cons k rest ih =>
    have hw' := writeByte_wf u hw (s.effAddr k.val) (s.getV k)
    rw [List.foldl_cons]
    by_cases later : j ∈ rest
    · exact ih _ hw' later
    · obtain rfl : j = k := (List.mem_cons.1 hj).resolve_right later
      have apart : ∀ k ∈ rest, s.effAddr j.val ≠ s.effAddr k.val := by
        intro k hk e
        exact later (Fin.ext (Nat.add_left_cancel e) ▸ hk)
      rw [readByte_storeRegs_fold_ne s _ hw' rest apart, readByte_writeByte_same u hw _ hr]

theorem readByte_storeRegs (s : State) (hw : Memory.wf s.mem = true) {x k : Reg} (hk : k.val ≤ x.val)
    (hr : s.effAddr k.val < 4096) : (s.storeRegs x).readByte (s.effAddr k.val) = s.getV k :=
  readByte_storeRegs_fold_mem s s hw _ ((mem_regsUpTo x k).2 hk) hr

theorem readByte_storeRegs_outside (s : State) (hw : Memory.wf s.mem = true) {x : Reg} {b : Nat}
    (hb : ∀ k : Reg, k.val ≤ x.val → b ≠ s.effAddr k.val) : (s.storeRegs x).readByte b = s.readByte b :=
  readByte_storeRegs_fold_ne s s hw _ (fun k hk => hb k ((mem_regsUpTo x k).1 hk))

theorem SameButRegs.keepsAllBut {s t : State} (h : SameButRegs s t) : KeepsAllBut [.diags] s t := by
  intro p hp
  cases p with
  | I => exact h.I
  | stack => exact h.stack
  | DT => exact h.DT
  | ST => exact h.ST
  | key => exact h.key
  | draw => exact h.draw
  | grid => exact h.grid
  | mem => exact readByte_congr h.mem
  | div => exact h.div
  | halted => exact h.halted
  | fault => exact h.fault
  | draws => exact h.draws
  | cues => exact h.cues
  | diags => exact absurd (List.mem_singleton_self _) hp
  | params => exact h.params

end State

theorem exec_ldMemVx (x : Reg) (s : State) : exec (.ldMemVx x) s = .next (s.storeRegs x).advance := rfl

theorem exec_ldVxMem (x : Reg) (s : State) : exec (.ldVxMem x) s = .next (s.loadRegs x).advance := rfl

/-- Settles O42: the loop's stores land on distinct addresses and leave everything but memory and the diagnostics. -/
theorem registersAreStored : Obligations.RegistersAreStored := by
  intro x s hw
  have frame := s.storeRegs_same x
  exact ⟨_, exec_ldMemVx x s, fun k hk hr => s.readByte_storeRegs hw hk (Nat.lt_succ_of_le hr),
    fun a ha => s.readByte_storeRegs_outside hw ha, fun _ => rfl, s.storeRegs_diags x, congrArg (· + 2) frame.pc,
    frame.keepsRegs.advance, frame.keepsAllBut.advance⟩

/-- Settles O43: each register up to `x` is loaded once, from its own address. -/
theorem registersAreLoaded : Obligations.RegistersAreLoaded := by
  intro x s
  have frame := s.loadRegs_same x
  refine ⟨_, exec_ldVxMem x s, fun k hk => ?_, fun k hk => ?_, s.loadRegs_diags x, congrArg (· + 2) frame.pc,
    frame.keepsAllBut.advance⟩
  · exact (s.loadRegs_getV x k).trans (if_pos hk)
  · exact (s.loadRegs_getV x k).trans (if_neg (by omega))

/-- The word fetched, as a number (R65). -/
theorem State.fetchWord_toNat (s : State) :
    s.fetchWord.toNat = (s.readByte s.pc.toNat).toNat * 256 + (s.readByte (s.pc.toNat + 1)).toNat := by
  rw [fetchWord, wordOfBytes, BitVec.toNat_ofNat]; omega

/-- Settles O44: after the store `pc` stands at `I`, where V0 and V1 were stored. -/
theorem storeIsSeenByTheNextFetch : Obligations.StoreIsSeenByTheNextFetch := by
  intro x s t hw hx hI hr run
  obtain rfl := Host.Outcome.next.inj ((exec_ldMemVx x s).symm.trans run)
  have pc : (s.storeRegs x).advance.pc = s.I := (congrArg (· + 2) (s.storeRegs_same x).pc).trans hI.symm
  have first : (s.storeRegs x).readByte s.I.toNat = s.getV 0 :=
    s.readByte_storeRegs hw (k := 0) (Nat.zero_le _) (by rw [State.effAddr_eq]; omega)
  have second : (s.storeRegs x).readByte (s.I.toNat + 1) = s.getV 1 :=
    s.readByte_storeRegs hw (k := 1) hx (by rw [State.effAddr_eq]; exact Nat.lt_succ_of_le hr)
  rw [State.fetchWord_toNat, pc, State.readByte_congr (State.advance_mem _), State.readByte_congr (State.advance_mem _),
    first, second]

end Sys2Proof.Machine
end

section
/-! Proofs of spec/44_keys_timers.md: the key skips (R210 to R212), the key wait (R213), the timers' writes (R215, R216); and
of spec/60_exceptions.md section 5: the tick and its cue (R241, R243). -/

namespace Sys2Proof.Machine

open Sys2Proof.Safety

/-! ### The meanings, by their state operation -/

theorem exec_skp (x : Reg) (s : State) :
    exec (.skp x) s = .next ((s.noteKey (s.getV x).toNat).skipIf (s.keyDown (s.getV x).toNat)) := rfl

theorem exec_sknp (x : Reg) (s : State) :
    exec (.sknp x) s = .next ((s.noteKey (s.getV x).toNat).skipIf (!s.keyDown (s.getV x).toNat)) := rfl

theorem exec_ldDtVx (x : Reg) (s : State) : exec (.ldDtVx x) s = .next (s.setDT (s.getV x)).advance := rfl

theorem exec_ldStVx (x : Reg) (s : State) : exec (.ldStVx x) s = .next (s.setST (s.getV x)).advance := rfl

theorem exec_ldVxK_of_none {s : State} (h : s.scanKeys = none) (x : Reg) : exec (.ldVxK x) s = .next s := by
  show execLdVxK x s = _
  rw [execLdVxK, h]

theorem exec_ldVxK_of_some {s : State} {k : Reg} (h : s.scanKeys = some k) (x : Reg) :
    exec (.ldVxK x) s = .next (s.setV x (BitVec.ofNat 8 k.val)).advance := by
  show execLdVxK x s = _
  rw [execLdVxK, h]

namespace State

/-! ### A key's level -/

theorem keyDown_val (s : State) (k : Reg) : s.keyDown k.val = s.key.get k := by
  rw [keyDown, Vector.getElem?_eq_getElem k.isLt]; rfl

theorem keyDown_of_ge (s : State) {k : Nat} (h : 16 ≤ k) : s.keyDown k = false := by
  rw [keyDown, Vector.getElem?_eq_none h]; rfl

/-- The test of a key fires no diagnostic. -/
theorem noteKey_val (s : State) (k : Reg) : s.noteKey k.val = s := by
  have inRange : decide (Config.nKeys ≤ k.val) = false := decide_eq_false (Nat.not_le.2 k.isLt)
  rw [noteKey, inRange]; rfl

/-- The test of an index that is no key fires the diagnostic. -/
theorem noteKey_of_ge (s : State) {k : Nat} (h : 16 ≤ k) : s.noteKey k = s.noteDiag := by
  have outside : decide (Config.nKeys ≤ k) = true := decide_eq_true h
  rw [noteKey, outside]; rfl

theorem skipIf_pc (s : State) (c : Bool) : (s.skipIf c).pc = s.pc + if c then 4 else 2 := by
  rw [skipIf_eq_setPc, setPc_pc]

end State

/-- What a key skip whose index is a key does. -/
theorem exec_keySkip_spec {i : Instr} {s : State} {c : Bool} (meaning : exec i s = .next (s.skipIf c)) :
    ∃ t, exec i s = .next t ∧ KeepsRegsBut [] s t ∧ KeepsAllBut [] s t ∧ t.pc = s.pc + (if c then 4 else 2) :=
  ⟨_, meaning, s.skipIf_keepsRegs c, s.skipIf_keepsAllBut c, s.skipIf_pc c⟩

/-- Settles O48: the index is a key's number, or 16 or more, where the test reads false with the diagnostic. -/
theorem keySkipsTestTheLevel : Obligations.KeySkipsTestTheLevel := by
  intro x s
  refine ⟨fun k hk => ⟨?_, ?_⟩, fun h => ⟨?_, ?_⟩⟩
  · exact exec_keySkip_spec (by rw [exec_skp, hk, s.noteKey_val, s.keyDown_val])
  · have run : exec (.sknp x) s = .next (s.skipIf (!s.key.get k)) := by
      rw [exec_sknp, hk, s.noteKey_val, s.keyDown_val]
    obtain ⟨t, ht, regs, parts, pc⟩ := exec_keySkip_spec run
    exact ⟨t, ht, regs, parts, by rw [pc]; cases s.key.get k <;> rfl⟩
  · rw [exec_skp, s.noteKey_of_ge h, s.keyDown_of_ge h]; rfl
  · rw [exec_sknp, s.noteKey_of_ge h, s.keyDown_of_ge h]; rfl

/-! ### The scan of the key wait -/

/-- A scan over keys none of which is pressed keeps what it had found. -/
theorem foldl_scan_of_none {p : Reg → Bool} {l : List Reg} (h : ∀ k ∈ l, p k = false) (found : Option Reg) :
    l.foldl (fun found k => if p k then some k else found) found = found := by
  induction l with
  | nil => rfl
  | cons k rest ih =>
    rw [List.foldl_cons, h k List.mem_cons_self, if_neg Bool.false_ne_true]
    exact ih (fun j hj => h j (List.mem_cons_of_mem k hj))

/-- The scan's order at a key: the keys up to it, itself, then only greater ones. -/
theorem allRegs_split (k : Reg) :
    allRegs = allRegs.take k.val ++ k :: allRegs.drop (k.val + 1) ∧ ∀ j ∈ allRegs.drop (k.val + 1), k.val < j.val := by
  revert k; decide

theorem State.scanKeys_eq_none {s : State} (h : ∀ k : Reg, s.key.get k = false) : s.scanKeys = none :=
  foldl_scan_of_none (fun k _ => h k) none

/-- The last hit of the rising scan is the highest key pressed (R213). -/
theorem State.scanKeys_eq_some {s : State} {k : Reg} (hk : s.key.get k = true)
    (above : ∀ j : Reg, k.val < j.val → s.key.get j = false) : s.scanKeys = some k := by
  obtain ⟨split, greater⟩ := allRegs_split k
  rw [scanKeys, split, List.foldl_append, List.foldl_cons, hk, if_pos rfl]
  exact foldl_scan_of_none (fun j hj => above j (greater j hj)) _

/-- Settles O49: the scan finds no key, or the highest one, whose number is written as a byte. -/
theorem keyWaitTakesTheHighestKey : Obligations.KeyWaitTakesTheHighestKey := by
  intro x s
  refine ⟨fun h => exec_ldVxK_of_none (State.scanKeys_eq_none h) x, fun k hk above => ?_⟩
  obtain ⟨t, run, value, frame⟩ := exec_setV_spec (exec_ldVxK_of_some (State.scanKeys_eq_some hk above) x)
  exact ⟨t, run, by rw [value, BitVec.toNat_ofNat]; omega, frame⟩

/-! ### The timers' writes -/

namespace State

theorem setDT_keepsAllBut (s : State) (v : Byte) : KeepsAllBut [.DT] s (s.setDT v) := by
  intro p hp
  cases p with
  | DT => exact absurd (List.mem_singleton_self _) hp
  | mem => exact readByte_congr (setDT_mem s v)
  | _ => rfl

theorem setST_keepsAllBut (s : State) (v : Byte) : KeepsAllBut [.ST] s (s.setST v) := by
  intro p hp
  cases p with
  | ST => exact absurd (List.mem_singleton_self _) hp
  | mem => exact readByte_congr (setST_mem s v)
  | _ => rfl

end State

/-- Settles O51: each of the two is one write of its timer. -/
theorem timersAreWritten : Obligations.TimersAreWritten := fun x s =>
  ⟨⟨_, exec_ldDtVx x s, rfl, State.advance_pc _, (keepsRegs_of_V_eq (State.setDT_V s _)).advance,
    (s.setDT_keepsAllBut _).advance⟩,
   ⟨_, exec_ldStVx x s, rfl, State.advance_pc _, (keepsRegs_of_V_eq (State.setST_V s _)).advance,
    (s.setST_keepsAllBut _).advance⟩⟩

/-! ### The tick -/

namespace State

@[simp] theorem tick_DT (s : State) : s.tick.DT = countDown s.DT := by simp [tick]

@[simp] theorem tick_ST (s : State) : s.tick.ST = countDown s.ST := by simp [tick]

theorem countDown_eq_one_iff (t : Byte) : countDown t = 1 ↔ t.toNat = 2 := by
  rw [← BitVec.toNat_inj, countDown_toNat]
  show t.toNat - 1 = 1 ↔ _
  omega

theorem emitCueIf_cues (s : State) (c : Bool) : (s.emitCueIf c).cues = if c then s.cues + 1 else s.cues := by
  cases c <;> rfl

/-- The cue comes exactly at a sound timer of 2, which the tick brings to 1 (R243). -/
theorem tick_cues (s : State) : s.tick.cues = if s.ST.toNat = 2 then s.cues + 1 else s.cues := by
  have cond : (decide (s.ST ≠ 0) && decide (countDown s.ST = 1)) = decide (s.ST.toNat = 2) := by
    rw [Bool.and_eq_decide, decide_eq_decide]
    simp only [decide_eq_true_eq, countDown_eq_one_iff]
    exact and_iff_right_of_imp (fun two zero => by rw [zero] at two; cases two)
  rw [tick, emitCueIf_cues, cond]
  simp

theorem SameButTimers.keepsRegs {s t : State} (h : SameButTimers s t) : KeepsRegsBut [] s t := keepsRegs_of_V_eq h.V

theorem SameButTimers.keepsAllBut {s t : State} (h : SameButTimers s t) (div : t.div = s.div) :
    KeepsAllBut [.DT, .ST, .cues] s t := by
  intro p hp
  cases p with
  | I => exact h.I
  | stack => exact h.stack
  | DT => exact absurd (by decide) hp
  | ST => exact absurd (by decide) hp
  | key => exact h.key
  | draw => exact h.draw
  | grid => exact h.grid
  | mem => exact readByte_congr h.mem
  | div => exact div
  | halted => exact h.halted
  | fault => exact h.fault
  | draws => exact h.draws
  | cues => exact absurd (by decide) hp
  | diags => exact h.diags
  | params => exact h.params

theorem tick_div (s : State) : s.tick.div = s.div := by simp [tick]

end State

/-- Settles O13: both timers count down, the cue comes at a sound timer of 2, and the frame is the tick's. -/
theorem tickDecrementsTimersAndCues : Obligations.TickDecrementsTimersAndCues := by
  intro s
  have frame := s.tick_same
  have dt : s.tick.DT.toNat = s.DT.toNat - 1 := by rw [State.tick_DT, State.countDown_toNat]
  have st : s.tick.ST.toNat = s.ST.toNat - 1 := by rw [State.tick_ST, State.countDown_toNat]
  refine ⟨by split <;> omega, by split <;> omega, ?_, frame.pc, frame.keepsRegs, frame.keepsAllBut s.tick_div⟩
  rw [State.tick_cues, st]
  exact if_congr (by omega) rfl rfl

namespace State

theorem iterate_tick_DT (k : Nat) (s : State) : (State.tick^[k] s).DT.toNat = s.DT.toNat - k := by
  induction k with
  | zero => rfl
  | succ k ih => rw [Function.iterate_succ_apply', tick_DT, countDown_toNat, ih, Nat.sub_sub]

theorem iterate_tick_ST (k : Nat) (s : State) : (State.tick^[k] s).ST.toNat = s.ST.toNat - k := by
  induction k with
  | zero => rfl
  | succ k ih => rw [Function.iterate_succ_apply', tick_ST, countDown_toNat, ih, Nat.sub_sub]

/-- Of `k` ticks the one that meets a sound timer of 2 cues, if it is among them. -/
theorem iterate_tick_cues (k : Nat) (s : State) :
    (State.tick^[k] s).cues = s.cues + (if 2 ≤ s.ST.toNat ∧ s.ST.toNat - 1 ≤ k then 1 else 0) := by
  induction k with
  | zero => rw [if_neg (by omega)]; rfl
  | succ k ih =>
    rw [Function.iterate_succ_apply', tick_cues, iterate_tick_ST, ih]
    split_ifs <;> omega

end State

/-- Settles O16: by induction on the number of ticks. -/
theorem soundTimerCuesOnce : Obligations.SoundTimerCuesOnce := fun k s =>
  ⟨State.iterate_tick_DT k s, State.iterate_tick_ST k s, State.iterate_tick_cues k s⟩

end Sys2Proof.Machine
end

section
/-! Proofs of spec/20_memory.md section 7: the grid's accessors (R72); of spec/43_display.md: the sprite (R190 to R194); and of
the host's snapshot (spec/10_state.md R34). -/

namespace Sys2Proof.Machine

open Sys2Proof.Safety

namespace State

/-! ### Out of range -/

/-- Out of range a pixel reads as off (R72). -/
theorem pixel_of_ge (s : State) {px py : Nat} (h : 64 ≤ px ∨ 32 ≤ py) : s.pixel px py = false := by
  rw [pixel]
  by_cases row : py < 32
  · simp [row, show 64 ≤ px by omega]
  · simp [Nat.not_lt.1 row]

theorem notePixel_of_ge (s : State) {px py : Nat} (h : 64 ≤ px ∨ 32 ≤ py) : s.notePixel px py = s.noteDiag := by
  have outside : outOfGrid px py = true := by
    rw [outOfGrid, Bool.or_eq_true, decide_eq_true_iff, decide_eq_true_iff]; exact h
  rw [notePixel, outside]; rfl

theorem setPixel_of_ge (s : State) {px py : Nat} (b : Bool) (h : 64 ≤ px ∨ 32 ≤ py) :
    s.setPixel px py b = s.noteDiag := by
  rw [setPixel, dif_neg (by omega)]

/-! ### The frames of the grid's updates, in the terms of the obligations -/

theorem SameButGrid.keepsRegs {s t : State} (h : SameButGrid s t) : KeepsRegsBut [VF] s t :=
  fun k hk => h.regs k (List.ne_of_not_mem_cons hk)

theorem SameButGrid.keepsAllBut {s t : State} (h : SameButGrid s t) : KeepsAllBut [.grid, .diags] s t := by
  intro p hp
  cases p with
  | I => exact h.I
  | stack => exact h.stack
  | DT => exact h.DT
  | ST => exact h.ST
  | key => exact h.key
  | draw => exact h.draw
  | grid => exact absurd (by decide) hp
  | mem => exact readByte_congr h.mem
  | div => exact h.div
  | halted => exact h.halted
  | fault => exact h.fault
  | draws => exact h.draws
  | cues => exact h.cues
  | diags => exact absurd (by decide) hp
  | params => exact h.params

theorem setGrid_keepsAllBut (s : State) (g : Grid) : KeepsAllBut [.grid] s (s.setGrid g) := by
  intro p hp
  cases p with
  | grid => exact absurd (List.mem_singleton_self _) hp
  | mem => exact readByte_congr (setGrid_mem s g)
  | _ => rfl

theorem setDraw_keepsAllBut (s : State) (b : Bool) : KeepsAllBut [.draw] s (s.setDraw b) := by
  intro p hp
  cases p with
  | draw => exact absurd (List.mem_singleton_self _) hp
  | mem => exact readByte_congr (setDraw_mem s b)
  | _ => rfl

/-- A set changes no pixel but the one it names, in range or not. -/
theorem pixel_setPixel_ne (s : State) {px py qx qy : Nat} (b : Bool) (h : ¬ (qx = px ∧ qy = py)) :
    (s.setPixel px py b).pixel qx qy = s.pixel qx qy := by
  by_cases inRange : px < 64 ∧ py < 32
  · rw [pixel_setPixel s px py qx qy b inRange.1 inRange.2, if_neg h]
  · rw [setPixel_of_ge s b (by omega)]; rfl

end State

/-- Settles O60: the accessors' equations in range and out of range, and the frames of a set and of a clear. -/
theorem gridAccessorsAreBoundsChecked : Obligations.GridAccessorsAreBoundsChecked := by
  intro s px py b
  refine ⟨fun hx hy => ⟨s.notePixel_of_lt hx hy, ?_, s.setPixel_diags px py b hx hy⟩,
    fun h => ⟨s.pixel_of_ge h, s.notePixel_of_ge h, s.setPixel_of_ge b h⟩,
    fun qx qy h => s.pixel_setPixel_ne b h, keepsRegs_of_V_eq (s.setPixel_V px py b), s.setPixel_pc px py b,
    (s.setPixel_same px py b).keepsAllBut, fun qx qy => s.pixel_clearGrid qx qy, keepsRegs_of_V_eq s.clearGrid_V,
    s.clearGrid_pc, s.setGrid_keepsAllBut _⟩
  rw [s.pixel_setPixel px py px py b hx hy, if_pos ⟨rfl, rfl⟩]

/-! ### XORing an image into the grid -/

/-- Going from `s` to `t` XORs the pixels of `P` into the grid, each once, and collects in VF whether one of them was lit. -/
structure Drawn (P : Nat → Nat → Prop) (s t : State) : Prop where
  pixel : ∀ px py, t.pixel px py = true ↔ ¬ (s.pixel px py = true ↔ P px py)
  hit : (∃ px py, P px py ∧ s.pixel px py = true) → t.getV VF = 1
  miss : (¬ ∃ px py, P px py ∧ s.pixel px py = true) → t.getV VF = s.getV VF

namespace Drawn

theorem congr {P Q : Nat → Nat → Prop} {s t : State} (h : Drawn P s t) (e : ∀ px py, P px py ↔ Q px py) : Drawn Q s t :=
  funext₂ (fun px py => propext (e px py)) ▸ h

/-- Nothing drawn. -/
theorem of_unchanged {s t : State} (grid : t.grid = s.grid) (vf : t.getV VF = s.getV VF) :
    Drawn (fun _ _ => False) s t where
  pixel px py := by rw [State.pixel_congr grid]; simp
  hit := fun ⟨_, _, h, _⟩ => h.elim
  miss _ := vf

/-- Two disjoint images drawn one after the other are their union drawn. -/
theorem trans {P Q : Nat → Nat → Prop} {s t u : State} (h : Drawn P s t) (g : Drawn Q t u)
    (disjoint : ∀ px py, P px py → ¬ Q px py) : Drawn (fun px py => P px py ∨ Q px py) s u := by
  have kept : ∀ px py, Q px py → (t.pixel px py = true ↔ s.pixel px py = true) := by
    intro px py hq
    have hp : ¬ P px py := fun hp => disjoint px py hp hq
    rw [h.pixel px py]; tauto
  refine ⟨fun px py => ?_, ?_, fun none => ?_⟩
  · rw [g.pixel px py, h.pixel px py]
    have := disjoint px py
    tauto
  · rintro ⟨px, py, hp | hq, lit⟩
    · have collided := h.hit ⟨px, py, hp, lit⟩
      by_cases again : ∃ px py, Q px py ∧ t.pixel px py = true
      · exact g.hit again
      · exact (g.miss again).trans collided
    · exact g.hit ⟨px, py, hq, (kept px py hq).2 lit⟩
  · rw [g.miss, h.miss]
    · exact fun ⟨px, py, hp, lit⟩ => none ⟨px, py, .inl hp, lit⟩
    · exact fun ⟨px, py, hq, lit⟩ => none ⟨px, py, .inr hq, (kept px py hq).1 lit⟩

end Drawn

namespace State

/-- Toggling draws one pixel. -/
theorem togglePixel_drawn (s : State) {px py : Nat} (hx : px < 64) (hy : py < 32) :
    Drawn (fun qx qy => qx = px ∧ qy = py) s (s.togglePixel px py) where
  pixel qx qy := by
    rw [pixel_togglePixel s px py qx qy hx hy]
    by_cases here : qx = px ∧ qy = py
    · obtain ⟨rfl, rfl⟩ := here
      simp
    · simp [here]
  hit := by
    rintro ⟨_, _, ⟨rfl, rfl⟩, lit⟩
    rw [togglePixel_VF, if_pos lit]
  miss none := by
    rw [togglePixel_VF, if_neg (fun lit => none ⟨px, py, ⟨rfl, rfl⟩, lit⟩)]

theorem spriteCol_lt (vx : Byte) (c : Nat) : spriteCol vx c < 64 := Nat.mod_lt _ (by decide)

theorem spriteRow_lt (vy : Byte) (r : Nat) : spriteRow vy r < 32 := Nat.mod_lt _ (by decide)

/-- One column of a sprite row. -/
theorem drawBit_drawn (vx vy : Byte) (r : Nat) (b : Byte) (s : State) (c : Nat) :
    Drawn (fun px py => spriteBit b c = true ∧ spriteCol vx c = px ∧ spriteRow vy r = py) s (drawBit vx vy r b s c) := by
  unfold drawBit
  split
  · rename_i lit
    refine (s.togglePixel_drawn (spriteCol_lt vx c) (spriteRow_lt vy r)).congr (fun px py => ?_)
    rw [and_iff_right lit, eq_comm, @eq_comm _ py]
  · rename_i dark
    exact (Drawn.of_unchanged rfl rfl).congr (fun px py => ⟨False.elim, fun h => dark h.1⟩)

theorem drawBit_diags (vx vy : Byte) (r : Nat) (b : Byte) (s : State) (c : Nat) :
    (drawBit vx vy r b s c).diags = s.diags := by
  unfold drawBit
  split
  · exact s.togglePixel_diags _ _ (spriteCol_lt vx c) (spriteRow_lt vy r)
  · rfl

/-- The first `m` columns of a sprite row: at most 8, so no two of them meet after wrapping (R190). -/
theorem drawBits_drawn (vx vy : Byte) (r : Nat) (b : Byte) (s : State) {m : Nat} (hm : m ≤ 8) :
    Drawn (fun px py => ∃ c, c < m ∧ spriteBit b c = true ∧ spriteCol vx c = px ∧ spriteRow vy r = py) s
      ((List.range m).foldl (drawBit vx vy r b) s) := by
  induction m with
  | zero => exact (Drawn.of_unchanged rfl rfl).congr (by simp)
  | succ m ih =>
    rw [List.range_succ, List.foldl_append, List.foldl_cons, List.foldl_nil]
    refine ((ih (by omega)).trans (drawBit_drawn vx vy r b _ m) ?_).congr (fun px py => ?_)
    · rintro px py ⟨c, hc, -, hcol, -⟩ ⟨-, hcol', -⟩
      have := hcol.trans hcol'.symm
      simp only [spriteCol, Config.gridW] at this
      omega
    · simp only [Nat.lt_succ_iff_lt_or_eq, or_and_right, exists_or, exists_eq_left]

theorem drawBits_diags (vx vy : Byte) (r : Nat) (b : Byte) (s : State) (l : List Nat) :
    (l.foldl (drawBit vx vy r b) s).diags = s.diags := by
  induction l generalizing s with
  | nil => rfl
  | cons c rest ih => rw [List.foldl_cons, ih, drawBit_diags]

/-- One sprite row: the read of its byte draws nothing, then its eight columns are drawn. -/
theorem drawRow_drawn (vx vy : Byte) (s : State) (r : Nat) :
    Drawn (fun px py => ∃ c, c < 8 ∧ spriteBit (s.readByte (s.effAddr r)) c = true ∧ spriteCol vx c = px ∧
      spriteRow vy r = py) s (drawRow vx vy s r) := by
  have read : Drawn (fun _ _ => False) s (s.noteRead (s.effAddr r)) :=
    Drawn.of_unchanged (by simp [noteRead]) (getV_congr (by simp [noteRead]) VF)
  exact (read.trans (drawBits_drawn vx vy r _ _ le_rfl) (fun _ _ h => h.elim)).congr (fun px py => by rw [false_or])

theorem drawRow_diags (vx vy : Byte) (s : State) (r : Nat) :
    (drawRow vx vy s r).diags = s.diags + (if 4096 ≤ s.I.toNat + r then 1 else 0) := by
  rw [drawRow, drawBits_diags, noteRead_eq, effAddr_eq]

/-- The rows drawn before leave `I` and memory, so each row's byte is that of the start. -/
theorem drawRow_drawn_after (vx vy : Byte) {s t : State} (h : SameButGrid s t) (r : Nat) :
    Drawn (fun px py => ∃ c, c < 8 ∧ spriteBit (s.readByte (s.effAddr r)) c = true ∧ spriteCol vx c = px ∧
      spriteRow vy r = py) t (drawRow vx vy t r) := by
  have byte : t.readByte (t.effAddr r) = s.readByte (s.effAddr r) := by
    rw [effAddr_eq, effAddr_eq, h.I, readByte_congr h.mem]
  exact byte ▸ drawRow_drawn vx vy t r

theorem drawSprite_succ (s : State) (vx vy : Byte) (n : Nat) :
    s.drawSprite vx vy (n + 1) = drawRow vx vy (s.drawSprite vx vy n) n := by
  rw [drawSprite, List.range_succ, List.foldl_append]; rfl

/-- A sprite of at most 32 rows, no two of which meet after wrapping (R190), draws its image. -/
theorem drawSprite_drawn (s : State) (vx vy : Byte) {n : Nat} (hn : n ≤ 32) :
    Drawn (SpriteCovers s vx vy n) s (s.drawSprite vx vy n) := by
  suffices h : Drawn (fun px py => ∃ r, r < n ∧ ∃ c, c < 8 ∧ spriteBit (s.readByte (s.effAddr r)) c = true ∧
      spriteCol vx c = px ∧ spriteRow vy r = py) s (s.drawSprite vx vy n) from
    h.congr (fun px py => by simp only [SpriteCovers, exists_and_left]; rfl)
  induction n with
  | zero => exact (Drawn.of_unchanged rfl rfl).congr (by simp)
  | succ n ih =>
    rw [drawSprite_succ]
    refine ((ih (by omega)).trans (drawRow_drawn_after vx vy (s.drawSprite_same vx vy n) n) ?_).congr (fun px py => ?_)
    · rintro px py ⟨r, hr, c, -, -, -, hrow⟩ ⟨c', -, -, -, hrow'⟩
      have := hrow.trans hrow'.symm
      simp only [spriteRow, Config.gridH] at this
      omega
    · simp only [Nat.lt_succ_iff_lt_or_eq, or_and_right, exists_or, exists_eq_left]

theorem drawSprite_diags (s : State) (vx vy : Byte) (n : Nat) :
    (s.drawSprite vx vy n).diags = s.diags + outOfRangeCount s.I.toNat n := by
  induction n with
  | zero => rfl
  | succ n ih => rw [drawSprite_succ, drawRow_diags, ih, (s.drawSprite_same vx vy n).I, outOfRangeCount_succ, Nat.add_assoc]

/-- A pixel of an image lies in the grid. -/
theorem spriteCovers_lt {s : State} {vx vy : Byte} {n px py : Nat} (h : SpriteCovers s vx vy n px py) :
    px < 64 ∧ py < 32 := by
  obtain ⟨r, c, -, -, -, rfl, rfl⟩ := h
  exact ⟨Nat.mod_lt _ (by decide), Nat.mod_lt _ (by decide)⟩

end State

theorem exec_drw (x y : Reg) (n : Nibble) (s : State) : exec (.drw x y n) s =
    .next (((s.setV VF 0).drawSprite (s.getV x) (s.getV y) n.val).setDraw true).advance := rfl

/-- Clearing VF draws nothing and changes neither `I` nor memory, so the image drawn after it is that of the start. -/
theorem exec_drw_drawn (x y : Reg) (n : Nibble) (s : State) :
    ∃ t, exec (.drw x y n) s = .next t ∧ Drawn (SpriteCovers s (s.getV x) (s.getV y) n.val) (s.setV VF 0) t :=
  have drawn := (s.setV VF 0).drawSprite_drawn (s.getV x) (s.getV y) (n := n.val) (by omega)
  ⟨_, exec_drw x y n s, ⟨drawn.pixel, drawn.hit, drawn.miss⟩⟩

/-- Settles O46: the sprite's image is drawn from a VF of 0, so VF is 1 exactly on a collision. -/
theorem drawXorsTheSpriteImage : Obligations.DrawXorsTheSpriteImage := by
  intro x y n s
  have frame := (s.setV_VF_same 0).trans ((s.setV VF 0).drawSprite_same (s.getV x) (s.getV y) n.val)
  obtain ⟨t, run, drawn⟩ := exec_drw_drawn x y n s
  obtain rfl := Host.Outcome.next.inj ((exec_drw x y n s).symm.trans run)
  have none_lit := drawn.miss
  rw [State.getV_setV_same] at none_lit
  refine ⟨_, run, fun px py _ _ => drawn.pixel px py, ?_, ⟨fun one => ?_, ?_⟩, rfl,
    (s.setV VF 0).drawSprite_diags _ _ _, congrArg (· + 2) frame.pc, ?_, ?_⟩
  · exact (em _).imp drawn.hit none_lit
  · obtain ⟨px, py, covers, lit⟩ := by_contra (fun none => absurd ((none_lit none).symm.trans one) (by decide))
    exact ⟨px, py, (State.spriteCovers_lt covers).1, (State.spriteCovers_lt covers).2, lit, covers⟩
  · rintro ⟨px, py, -, -, lit, covers⟩
    exact drawn.hit ⟨px, py, covers, lit⟩
  · exact (frame.keepsRegs.trans (keepsRegs_of_V_eq (State.setDraw_V _ true) |>.mono (List.nil_subset _))).advance
  · exact ((frame.keepsAllBut.mono (by decide)).trans ((State.setDraw_keepsAllBut _ true).mono (by decide))).advance

/-! ### Drawing twice -/

/-- Two grids are equal when their pixels are. -/
theorem State.grid_eq_of_pixel_eq {s t : State} (h : ∀ px py, px < 64 → py < 32 → t.pixel px py = s.pixel px py) :
    t.grid = s.grid := by
  ext py hy px hx
  simpa [State.pixel, hx, hy] using h px py hx hy

/-- The same sprite, with the same bytes, at origins that wrap alike, has the same image. -/
theorem SpriteCovers_congr {s u : State} {vx vy ux uy : Byte} (bytes : ∀ a, u.readByte a = s.readByte a) (hI : u.I = s.I)
    (hx : ux.toNat % 64 = vx.toNat % 64) (hy : uy.toNat % 32 = vy.toNat % 32) (n px py : Nat) :
    SpriteCovers u ux uy n px py ↔ SpriteCovers s vx vy n px py := by
  have col : ∀ c, (ux.toNat + c) % 64 = (vx.toNat + c) % 64 := by omega
  have row : ∀ r, (uy.toNat + r) % 32 = (vy.toNat + r) % 32 := by omega
  simp only [SpriteCovers, bytes, hI, col, row]

/-- Settles O47: an image XORed twice is gone, and where the first draw met no lit pixel it lit every pixel of the image. -/
theorem drawingTwiceRestoresTheGrid : Obligations.DrawingTwiceRestoresTheGrid := by
  intro x y x' y' n s t u v first grid bytes hI hx hy second
  have same := SpriteCovers_congr bytes hI hx hy n.val
  obtain ⟨t', run, pixel, -, vf, -⟩ := drawXorsTheSpriteImage x y n s
  obtain rfl := Host.Outcome.next.inj (run.symm.trans first)
  obtain ⟨v', run', pixel', -, vf', -⟩ := drawXorsTheSpriteImage x' y' n u
  obtain rfl := Host.Outcome.next.inj (run'.symm.trans second)
  have between : ∀ px py, px < 64 → py < 32 →
      (u.pixel px py = true ↔ ¬ (s.pixel px py = true ↔ SpriteCovers s (s.getV x) (s.getV y) n.val px py)) :=
    fun px py hpx hpy => by rw [State.pixel_congr grid]; exact pixel px py hpx hpy
  refine ⟨State.grid_eq_of_pixel_eq fun px py hpx hpy => Bool.eq_iff_iff.2 ?_, fun clean ⟨px, py, covers⟩ => ?_⟩
  · rw [pixel' px py hpx hpy, between px py hpx hpy, same]
    tauto
  · obtain ⟨hpx, hpy⟩ := State.spriteCovers_lt covers
    have dark : ¬ s.pixel px py = true := fun lit =>
      absurd (clean.symm.trans (vf.2 ⟨px, py, hpx, hpy, lit, covers⟩)) (by decide)
    have lit : u.pixel px py = true := (between px py hpx hpy).2 (fun e => dark (e.2 covers))
    exact vf'.2 ⟨px, py, hpx, hpy, lit, (same px py).2 covers⟩

/-! ### The host's snapshot -/

/-- Settles O58: index `py * 64 + px` has column `px` and row `py` again. -/
theorem snapshotIsRowMajor : Obligations.SnapshotIsRowMajor := by
  intro s
  refine ⟨by rw [State.gridSnapshot, List.length_map, List.length_range]; rfl, fun px py hx hy => ?_⟩
  have index : py * 64 + px < Config.gridW * Config.gridH := by
    simp only [Config.gridW, Config.gridH]; omega
  have column : (py * 64 + px) % Config.gridW = px := by simp only [Config.gridW]; omega
  have row : (py * 64 + px) / Config.gridW = py := by simp only [Config.gridW]; omega
  rw [State.gridSnapshot, List.getElem?_map, List.getElem?_range index, Option.map_some, column, row]

end Sys2Proof.Machine
end

section
/-! Proofs of spec/10_state.md's rules about the whole machine: what each instruction may write (R21 to R34), what it does to
`pc` (R24), which raise a fatal condition (R230), and that none reads the sound timer (R30). One case split over the
instructions for each of these facts; the rules follow from them. -/

namespace Sys2Proof.Machine

open Sys2Proof.Safety

/-! ### The parts an instruction may write -/

/-- The parts beside the registers and `pc` that an instruction may write. -/
def writtenParts : Instr → List Part
  | .cls => [.grid, .draw]
  | .drw _ _ _ => [.grid, .draw, .diags]
  | .ret | .call _ => [.stack, .halted, .fault]
  | .rnd _ _ => [.draws]
  | .ldI _ | .addI _ | .ldF _ => [.I]
  | .ldB _ | .ldMemVx _ => [.mem, .diags]
  | .ldVxMem _ | .skp _ | .sknp _ => [.diags]
  | .ldDtVx _ => [.DT]
  | .ldStVx _ => [.ST]
  | _ => []

namespace State

theorem noteDiagIf_keepsAllBut (s : State) (c : Bool) : KeepsAllBut [.diags] s (s.noteDiagIf c) := by
  intro p hp
  cases c <;> cases p with
  | diags => exact absurd (List.mem_singleton_self _) hp
  | mem => exact fun _ => rfl
  | _ => rfl

theorem raise_keepsAllBut (s : State) (f : Fatal) : KeepsAllBut [.halted, .fault] s (s.raise f) := by
  intro p hp
  cases p with
  | halted => exact absurd (by decide) hp
  | fault => exact absurd (by decide) hp
  | mem => exact readByte_congr (raise_mem s f)
  | _ => rfl

theorem noteKey_skipIf_keepsAllBut (s : State) (k : Nat) (c : Bool) : KeepsAllBut [.diags] s ((s.noteKey k).skipIf c) :=
  (s.noteDiagIf_keepsAllBut _).trans (((s.noteKey k).skipIf_keepsAllBut c).mono (List.nil_subset _))

end State

/-- Every instruction leaves every part it does not name. -/
theorem exec_keepsAllBut {i : Instr} {s t : State} (h : exec i s = .next t) : KeepsAllBut (writtenParts i) s t := by
  cases i with
  | cls => exact Host.Outcome.next.inj h ▸ s.clearGrid_setDraw_advance_keepsAllBut true
  | ret =>
    obtain ⟨-, rfl⟩ | ⟨_, _, -, rfl⟩ := exec_ret_cases h
    · exact (s.raise_keepsAllBut _).mono (by decide)
    · exact (s.setStack_setPc_keepsAllBut _ _).mono (by decide)
  | call nnn =>
    obtain ⟨-, rfl⟩ | ⟨-, rfl⟩ := exec_call_cases h
    · exact (s.setStack_setPc_keepsAllBut _ _).mono (List.cons_subset_cons _ (List.nil_subset _))
    · exact (s.raise_keepsAllBut _).mono (List.subset_cons_self _ _)
  | jp nnn | jpV0 nnn => exact Host.Outcome.next.inj h ▸ s.setPc_keepsAllBut _
  | seImm x nn | sneImm x nn | seReg x y | sneReg x y => exact Host.Outcome.next.inj h ▸ s.skipIf_keepsAllBut _
  | ldImm x nn | addImm x nn | ldReg x y | orReg x y | andReg x y | xorReg x y | ldVxDt x =>
    exact Host.Outcome.next.inj h ▸ s.setV_advance_keepsAllBut x _
  | addReg x y | sub x y | subn x y => exact Host.Outcome.next.inj h ▸ s.writeFlagged_advance_keepsAllBut x _ _
  | shr x y | shl x y => exact (State.shiftOutcome_next.1 h).2 ▸ s.writeFlagged_advance_keepsAllBut x _ _
  | ldI nnn | addI x | ldF x => exact Host.Outcome.next.inj h ▸ s.setI_advance_keepsAllBut _
  | rnd x nn => exact Host.Outcome.next.inj h ▸ s.countDraw_setV_advance_keepsAllBut x _
  | drw x y n =>
    obtain ⟨u, run, -, -, -, -, -, -, -, frame⟩ := drawXorsTheSpriteImage x y n s
    exact Host.Outcome.next.inj (run.symm.trans h) ▸ frame
  | skp x | sknp x => exact Host.Outcome.next.inj h ▸ s.noteKey_skipIf_keepsAllBut _ _
  | ldVxK x =>
    cases scan : s.scanKeys with
    | none => exact Host.Outcome.next.inj ((exec_ldVxK_of_none scan x).symm.trans h) ▸ KeepsAllBut.refl _ s
    | some k => exact Host.Outcome.next.inj ((exec_ldVxK_of_some scan x).symm.trans h) ▸ s.setV_advance_keepsAllBut x _
  | ldDtVx x => exact Host.Outcome.next.inj h ▸ (s.setDT_keepsAllBut _).advance
  | ldStVx x => exact Host.Outcome.next.inj h ▸ (s.setST_keepsAllBut _).advance
  | ldB x => exact Host.Outcome.next.inj h ▸ (s.writeBytes_same _ _).keepsAllBut.advance
  | ldMemVx x => exact Host.Outcome.next.inj h ▸ (s.storeRegs_same x).keepsAllBut.advance
  | ldVxMem x => exact Host.Outcome.next.inj h ▸ (s.loadRegs_same x).keepsAllBut.advance

/-- A part that differs is one the frame does not keep. -/
theorem mem_of_changed {ps : List Part} {s t : State} (frame : KeepsAllBut ps s t) {p : Part} (changed : ¬ Part.same s t p) :
    p ∈ ps :=
  by_contra fun hp => changed (frame p hp)

section WrittenBy

variable {i : Instr}

theorem writes_I (h : .I ∈ writtenParts i) : (∃ nnn, i = .ldI nnn) ∨ (∃ x, i = .addI x) ∨ (∃ x, i = .ldF x) := by
  cases i <;> simp [writtenParts] at h ⊢

theorem writes_stack (h : .stack ∈ writtenParts i) : i = .ret ∨ ∃ nnn, i = .call nnn := by
  cases i <;> simp [writtenParts] at h ⊢

theorem writes_DT (h : .DT ∈ writtenParts i) : ∃ x, i = .ldDtVx x := by
  cases i <;> simp [writtenParts] at h ⊢

theorem writes_ST (h : .ST ∈ writtenParts i) : ∃ x, i = .ldStVx x := by
  cases i <;> simp [writtenParts] at h ⊢

theorem writes_display (h : .draw ∈ writtenParts i ∨ .grid ∈ writtenParts i) : i = .cls ∨ ∃ x y n, i = .drw x y n := by
  cases i <;> simp [writtenParts] at h ⊢

theorem writes_mem (h : .mem ∈ writtenParts i) : (∃ x, i = .ldB x) ∨ (∃ x, i = .ldMemVx x) := by
  cases i <;> simp [writtenParts] at h ⊢

theorem writes_draws (h : .draws ∈ writtenParts i) : ∃ x nn, i = .rnd x nn := by
  cases i <;> simp [writtenParts] at h ⊢

theorem writes_halted (h : .halted ∈ writtenParts i) : i = .ret ∨ ∃ nnn, i = .call nnn := by
  cases i <;> simp [writtenParts] at h ⊢

theorem writes_fault (h : .fault ∈ writtenParts i) : i = .ret ∨ ∃ nnn, i = .call nnn := by
  cases i <;> simp [writtenParts] at h ⊢

end WrittenBy

/-- The keys, the divider, the cue and the parameters are written by no instruction. -/
theorem not_mem_writtenParts {p : Part} (hp : p ∈ [Part.key, .div, .cues, .params]) (i : Instr) : p ∉ writtenParts i := by
  simp only [List.mem_cons, List.not_mem_nil, or_false] at hp
  obtain rfl | rfl | rfl | rfl := hp <;> cases i <;> simp [writtenParts]

section Kept

variable {i : Instr} {s t : State} (h : exec i s = .next t)
include h

theorem exec_key : t.key = s.key := exec_keepsAllBut h .key (not_mem_writtenParts (by decide) i)
theorem exec_div : t.div = s.div := exec_keepsAllBut h .div (not_mem_writtenParts (by decide) i)
theorem exec_cues : t.cues = s.cues := exec_keepsAllBut h .cues (not_mem_writtenParts (by decide) i)
theorem exec_params : t.params = s.params := exec_keepsAllBut h .params (not_mem_writtenParts (by decide) i)

end Kept

/-- Settles O23: a part that changed is among the written parts of the instruction. -/
theorem partsAreWrittenOnlyByTheirInstructions : Obligations.PartsAreWrittenOnlyByTheirInstructions := by
  intro i s t h
  have frame := exec_keepsAllBut h
  exact ⟨fun c => writes_I (mem_of_changed frame c), fun c => writes_stack (mem_of_changed frame c),
    fun c => writes_DT (mem_of_changed frame c), fun c => writes_ST (mem_of_changed frame c),
    fun c => writes_display (c.imp (fun d => mem_of_changed frame d) (fun g => mem_of_changed frame g)),
    fun c => writes_mem (mem_of_changed frame (not_forall.2 c)), fun c => writes_draws (mem_of_changed frame c),
    exec_key h, exec_div h, exec_cues h, exec_params h⟩

/-! ### The fatal conditions -/

/-- Settles O12: the halt latch is written only by the return and the call, each in the case that raises. -/
theorem onlyReturnAndCallRaise : Obligations.OnlyReturnAndCallRaise := by
  intro i s t running h halted
  have raises : i = .ret ∨ ∃ nnn, i = .call nnn :=
    writes_halted (mem_of_changed (exec_keepsAllBut h) (fun same => by
      rw [show t.halted = s.halted from same, running] at halted; cases halted))
  obtain rfl | ⟨nnn, rfl⟩ := raises
  · obtain ⟨empty, rfl⟩ | ⟨a, rest, -, rfl⟩ := exec_ret_cases h
    · exact .inl ⟨rfl, empty, rfl⟩
    · exact absurd (running.symm.trans halted) Bool.false_ne_true
  · obtain ⟨-, rfl⟩ | ⟨full, rfl⟩ := exec_call_cases h
    · exact absurd (running.symm.trans halted) Bool.false_ne_true
    · obtain ⟨d, hd, hle⟩ := s.stackFull_iff.1 full
      exact .inr ⟨nnn, d, rfl, hd, hle, rfl⟩

/-! ### The registers an instruction may write -/

/-- The general registers an instruction may write: its destination and VF as its flag, or all that Fx65 loads. -/
def writtenRegs : Instr → List Reg
  | .ldVxMem x => regsUpTo x
  | i => (destination i).toList ++ if writesFlag i then [VF] else []

theorem mem_writtenRegs {i : Instr} {k : Reg} (h : k ∈ writtenRegs i) :
    destination i = some k ∨ (writesFlag i = true ∧ k = VF) ∨ ∃ x, i = .ldVxMem x ∧ k.val ≤ x.val := by
  unfold writtenRegs at h
  split at h
  · exact .inr (.inr ⟨_, rfl, (State.mem_regsUpTo _ k).1 h⟩)
  · obtain dest | flag := List.mem_append.1 h
    · exact .inl (Option.mem_toList.1 dest)
    · split at flag
      · exact .inr (.inl ⟨‹_›, List.mem_singleton.1 flag⟩)
      · cases flag

/-- Every instruction leaves every register it does not name. -/
theorem exec_keepsRegs {i : Instr} {s t : State} (h : exec i s = .next t) : KeepsRegsBut (writtenRegs i) s t := by
  cases i with
  | cls => exact Host.Outcome.next.inj h ▸ s.clearGrid_setDraw_advance_keepsRegs true
  | ret =>
    obtain ⟨-, rfl⟩ | ⟨_, _, -, rfl⟩ := exec_ret_cases h
    · exact keepsRegs_of_V_eq (s.raise_V _)
    · exact s.setStack_setPc_keepsRegs _ _
  | call nnn =>
    obtain ⟨-, rfl⟩ | ⟨-, rfl⟩ := exec_call_cases h
    · exact s.setStack_setPc_keepsRegs _ _
    · exact keepsRegs_of_V_eq (s.raise_V _)
  | jp nnn | jpV0 nnn => exact Host.Outcome.next.inj h ▸ s.setPc_keepsRegs _
  | seImm x nn | sneImm x nn | seReg x y | sneReg x y => exact Host.Outcome.next.inj h ▸ s.skipIf_keepsRegs _
  | ldImm x nn | addImm x nn | ldReg x y | orReg x y | andReg x y | xorReg x y | ldVxDt x =>
    exact Host.Outcome.next.inj h ▸ s.setV_advance_keepsRegs x _
  | addReg x y | sub x y | subn x y => exact Host.Outcome.next.inj h ▸ s.writeFlagged_advance_keepsRegs x _ _
  | shr x y | shl x y => exact (State.shiftOutcome_next.1 h).2 ▸ s.writeFlagged_advance_keepsRegs x _ _
  | ldI nnn | addI x | ldF x => exact Host.Outcome.next.inj h ▸ s.setI_advance_keepsRegs _
  | rnd x nn => exact Host.Outcome.next.inj h ▸ s.countDraw_setV_advance_keepsRegs x _
  | drw x y n =>
    obtain ⟨u, run, -, -, -, -, -, -, regs, -⟩ := drawXorsTheSpriteImage x y n s
    exact Host.Outcome.next.inj (run.symm.trans h) ▸ regs
  | skp x | sknp x =>
    exact Host.Outcome.next.inj h ▸ keepsRegs_of_V_eq ((State.skipIf_V _ _).trans (s.noteDiagIf_V _))
  | ldVxK x =>
    cases scan : s.scanKeys with
    | none => exact Host.Outcome.next.inj ((exec_ldVxK_of_none scan x).symm.trans h) ▸ fun _ _ => rfl
    | some k => exact Host.Outcome.next.inj ((exec_ldVxK_of_some scan x).symm.trans h) ▸ s.setV_advance_keepsRegs x _
  | ldDtVx x => exact Host.Outcome.next.inj h ▸ (keepsRegs_of_V_eq (s.setDT_V _)).advance
  | ldStVx x => exact Host.Outcome.next.inj h ▸ (keepsRegs_of_V_eq (s.setST_V _)).advance
  | ldB x => exact Host.Outcome.next.inj h ▸ (s.writeBytes_same _ _).keepsRegs.advance
  | ldMemVx x => exact Host.Outcome.next.inj h ▸ (s.storeRegs_same x).keepsRegs.advance
  | ldVxMem x =>
    refine Host.Outcome.next.inj h ▸ fun k hk => ?_
    exact (s.loadRegs_getV x k).trans (if_neg (fun le => hk ((State.mem_regsUpTo x k).2 le)))

theorem flagByte_eq (c : Bool) : flagByte c = 0 ∨ flagByte c = 1 := by cases c <;> simp [flagByte]

/-- A flag is exactly 0 or 1, where no result is written over it (R26). -/
theorem exec_flag {i : Instr} {s t : State} (h : exec i s = .next t) (flags : writesFlag i = true)
    (dest : destination i ≠ some VF) : t.getV VF = 0 ∨ t.getV VF = 1 := by
  cases i with
  | addReg x y | sub x y | subn x y =>
    have hx : x ≠ VF := fun e => dest (congrArg some e)
    obtain rfl := Host.Outcome.next.inj h
    exact s.writeFlagged_advance_getV_VF _ _ hx ▸ flagByte_eq _
  | shr x y | shl x y =>
    have hx : x ≠ VF := fun e => dest (congrArg some e)
    obtain ⟨-, rfl⟩ := State.shiftOutcome_next.1 h
    exact s.writeFlagged_advance_getV_VF _ _ hx ▸ flagByte_eq _
  | drw x y n =>
    obtain ⟨u, run, -, flag, -⟩ := drawXorsTheSpriteImage x y n s
    exact Host.Outcome.next.inj (run.symm.trans h) ▸ flag.symm
  | _ => cases flags

/-- Settles O21: a register that changed is among the written registers of the instruction, and a flag is a flag byte. -/
theorem registersChangeOnlyWhereNamed : Obligations.RegistersChangeOnlyWhereNamed := fun _ _ _ h =>
  ⟨fun k changed => mem_writtenRegs (by_contra fun hk => changed (exec_keepsRegs h k hk)), exec_flag h⟩

/-! ### The program counter -/

/-- An instruction that is no skip and assigns no `pc` ends in the advance, case (a) of R24. -/
theorem exec_pc_of_advancing {i : Instr} {s t : State} (h : exec i s = .next t) (plain : assignsPc i = false)
    (noSkip : isSkip i = false) : t.pc = s.pc + 2 := by
  cases i with
  | ret | jp nnn | call nnn | jpV0 nnn | ldVxK x => cases plain
  | seImm x nn | sneImm x nn | seReg x y | sneReg x y | skp x | sknp x => cases noSkip
  | shr x y | shl x y => exact (State.shiftOutcome_next.1 h).2 ▸ rfl
  | drw x y n =>
    obtain ⟨u, run, -, -, -, -, -, pc, -⟩ := drawXorsTheSpriteImage x y n s
    exact Host.Outcome.next.inj (run.symm.trans h) ▸ pc
  | ldB x => exact Host.Outcome.next.inj h ▸ congrArg (· + 2) (s.writeBytes_same _ _).pc
  | ldMemVx x => exact Host.Outcome.next.inj h ▸ congrArg (· + 2) (s.storeRegs_same x).pc
  | ldVxMem x => exact Host.Outcome.next.inj h ▸ congrArg (· + 2) (s.loadRegs_same x).pc
  | _ => exact Host.Outcome.next.inj h ▸ rfl

/-- A skip leaves `pc` two or four on, case (b) of R24. -/
theorem exec_pc_of_skip {i : Instr} {s t : State} (h : exec i s = .next t) (skip : isSkip i = true) :
    t.pc = s.pc + 2 ∨ t.pc = s.pc + 4 := by
  have two_or_four : ∀ (u : State) (c : Bool), (u.skipIf c).pc = u.pc + 2 ∨ (u.skipIf c).pc = u.pc + 4 := by
    intro u c
    cases c <;> simp [State.skipIf_pc]
  cases i with
  | seImm x nn | sneImm x nn | seReg x y | sneReg x y => exact Host.Outcome.next.inj h ▸ two_or_four s _
  | skp x | sknp x =>
    have pc : (s.noteKey (s.getV x).toNat).pc = s.pc := s.noteDiagIf_pc _
    exact Host.Outcome.next.inj h ▸ pc ▸ two_or_four (s.noteKey (s.getV x).toNat) _
  | _ => cases skip

/-- A key wait stays or advances, case (f) of R24. -/
theorem exec_pc_of_wait {x : Reg} {s t : State} (h : exec (.ldVxK x) s = .next t) : t.pc = s.pc ∨ t.pc = s.pc + 2 := by
  cases scan : s.scanKeys with
  | none => exact .inl (Host.Outcome.next.inj ((exec_ldVxK_of_none scan x).symm.trans h) ▸ rfl)
  | some k => exact .inr (Host.Outcome.next.inj ((exec_ldVxK_of_some scan x).symm.trans h) ▸ rfl)

/-- Settles O22: the three cases of R24, each modulo 2^16 as a sum of words. -/
theorem programCounterLaw : Obligations.ProgramCounterLaw := by
  intro i s t h
  have two : (s.pc + 2).toNat = (s.pc.toNat + 2) % 2 ^ 16 := BitVec.toNat_add s.pc 2
  have four : (s.pc + 4).toNat = (s.pc.toNat + 4) % 2 ^ 16 := BitVec.toNat_add s.pc 4
  refine ⟨fun plain noSkip => ?_, fun skip => ?_, ?_⟩
  · rw [exec_pc_of_advancing h plain noSkip, two]
  · exact (exec_pc_of_skip h skip).imp (fun e => (congrArg BitVec.toNat e).trans two) (fun e => (congrArg BitVec.toNat e).trans four)
  · rintro x rfl
    exact (exec_pc_of_wait h).imp_right (fun e => (congrArg BitVec.toNat e).trans two)

/-! ### The canonical form of memory -/

/-- Every instruction keeps memory canonical: it leaves it, or stores by the checked write. -/
theorem exec_keeps_wf {i : Instr} {s t : State} (h : exec i s = .next t) (hw : Memory.wf s.mem = true) :
    Memory.wf t.mem = true := by
  cases i with
  | ret => obtain ⟨-, rfl⟩ | ⟨_, _, -, rfl⟩ := exec_ret_cases h <;> exact hw
  | call nnn => obtain ⟨-, rfl⟩ | ⟨-, rfl⟩ := exec_call_cases h <;> exact hw
  | seImm x nn | sneImm x nn | seReg x y | sneReg x y => exact Host.Outcome.next.inj h ▸ (s.skipIf_mem _).symm ▸ hw
  | skp x | sknp x =>
    have mem : (s.noteKey (s.getV x).toNat).mem = s.mem := s.noteDiagIf_mem _
    exact Host.Outcome.next.inj h ▸ ((State.skipIf_mem _ _).trans mem).symm ▸ hw
  | shr x y | shl x y => exact (State.shiftOutcome_next.1 h).2 ▸ hw
  | drw x y n =>
    have mem := ((s.setV_VF_same 0).trans ((s.setV VF 0).drawSprite_same (s.getV x) (s.getV y) n.val)).mem
    exact Host.Outcome.next.inj h ▸ mem.symm ▸ hw
  | ldVxK x =>
    cases scan : s.scanKeys with
    | none => exact Host.Outcome.next.inj ((exec_ldVxK_of_none scan x).symm.trans h) ▸ hw
    | some k => exact Host.Outcome.next.inj ((exec_ldVxK_of_some scan x).symm.trans h) ▸ hw
  | ldB x => exact Host.Outcome.next.inj h ▸ s.writeBytes_wf hw _ _
  | ldMemVx x => exact Host.Outcome.next.inj h ▸ s.storeRegs_wf hw x
  | ldVxMem x => exact Host.Outcome.next.inj h ▸ (s.loadRegs_same x).mem.symm ▸ hw
  | _ => exact Host.Outcome.next.inj h ▸ hw

/-! ### The sound timer is never read: each operation commutes with a write of it -/

namespace State

theorem skipIf_setST (s : State) (v : Byte) (c : Bool) : (s.setST v).skipIf c = (s.skipIf c).setST v := by cases c <;> rfl

theorem noteDiagIf_setST (s : State) (v : Byte) (c : Bool) : (s.setST v).noteDiagIf c = (s.noteDiagIf c).setST v := by
  cases c <;> rfl

theorem writeByte_setST (s : State) (v : Byte) (a : Nat) (b : Byte) :
    (s.setST v).writeByte a b = (s.writeByte a b).setST v := by
  unfold writeByte
  split <;> rfl

theorem writeBytes_setST (s : State) (v : Byte) (a : Nat) (l : List Byte) :
    (s.setST v).writeBytes a l = (s.writeBytes a l).setST v := by
  induction l generalizing s a with
  | nil => rfl
  | cons b rest ih => rw [writeBytes, writeBytes, writeByte_setST, ih]

theorem storeRegs_setST (s : State) (v : Byte) (x : Reg) : (s.setST v).storeRegs x = (s.storeRegs x).setST v :=
  List.foldl_hom (fun t : State => t.setST v) (fun t _ => t.writeByte_setST v _ _)

theorem loadRegs_setST (s : State) (v : Byte) (x : Reg) : (s.setST v).loadRegs x = (s.loadRegs x).setST v :=
  List.foldl_hom (fun t : State => t.setST v) (fun t k => congrArg (fun u : State => u.setV k _) (t.noteDiagIf_setST v _))

theorem setPixel_setST (s : State) (v : Byte) (px py : Nat) (b : Bool) :
    (s.setST v).setPixel px py b = (s.setPixel px py b).setST v := by
  unfold setPixel
  split <;> rfl

theorem togglePixel_setST (s : State) (v : Byte) (px py : Nat) :
    (s.setST v).togglePixel px py = (s.togglePixel px py).setST v := by
  have note : (s.setST v).notePixel px py = (s.notePixel px py).setST v := s.noteDiagIf_setST v _
  have lit : (s.setST v).pixel px py = s.pixel px py := rfl
  unfold togglePixel
  rw [note, lit, setPixel_setST, setPixel_setST]
  split <;> rfl

theorem drawBit_setST (vx vy : Byte) (r : Nat) (b : Byte) (s : State) (v : Byte) (c : Nat) :
    drawBit vx vy r b (s.setST v) c = (drawBit vx vy r b s c).setST v := by
  unfold drawBit
  split
  · exact s.togglePixel_setST v _ _
  · rfl

theorem drawRow_setST (vx vy : Byte) (s : State) (v : Byte) (r : Nat) :
    drawRow vx vy (s.setST v) r = (drawRow vx vy s r).setST v := by
  have read : (s.setST v).noteRead (s.effAddr r) = (s.noteRead (s.effAddr r)).setST v := s.noteDiagIf_setST v _
  show (List.range 8).foldl (drawBit vx vy r (s.readByte (s.effAddr r))) ((s.setST v).noteRead (s.effAddr r)) = _
  rw [read]
  exact List.foldl_hom (fun t : State => t.setST v) (fun t c => drawBit_setST vx vy r _ t v c)

theorem drawSprite_setST (s : State) (v : Byte) (vx vy : Byte) (n : Nat) :
    (s.setST v).drawSprite vx vy n = (s.drawSprite vx vy n).setST v :=
  List.foldl_hom (fun t : State => t.setST v) (fun t r => drawRow_setST vx vy t v r)

end State

/-- Every instruction but Fx18 does the same with another value in the sound timer. -/
theorem exec_setST {i : Instr} {s t : State} (v : Byte) (h : exec i s = .next t) (notSound : ¬ ∃ x, i = .ldStVx x) :
    exec i (s.setST v) = .next (t.setST v) := by
  cases i with
  | ldStVx x => exact absurd ⟨x, rfl⟩ notSound
  | ret =>
    obtain ⟨top, rfl⟩ | ⟨a, rest, top, rfl⟩ := exec_ret_cases h
    · exact exec_ret_of_nil top
    · exact exec_ret_of_cons top
  | call nnn =>
    obtain ⟨room, rfl⟩ | ⟨full, rfl⟩ := exec_call_cases h
    · exact exec_call_of_room (s := s.setST v) room nnn
    · exact exec_call_of_full (s := s.setST v) full nnn
  | seImm x nn | sneImm x nn | seReg x y | sneReg x y =>
    obtain rfl := Host.Outcome.next.inj h
    exact congrArg Host.Outcome.next (s.skipIf_setST v _)
  | skp x | sknp x =>
    obtain rfl := Host.Outcome.next.inj h
    have note : (s.setST v).noteKey (s.getV x).toNat = (s.noteKey (s.getV x).toNat).setST v := s.noteDiagIf_setST v _
    exact congrArg Host.Outcome.next ((congrArg (State.skipIf · _) note).trans (State.skipIf_setST _ v _))
  | shr x y | shl x y =>
    obtain ⟨plain, rfl⟩ := State.shiftOutcome_next.1 h
    exact State.shiftOutcome_next.2 ⟨plain, rfl⟩
  | drw x y n =>
    obtain rfl := Host.Outcome.next.inj h
    exact congrArg (fun u : State => Host.Outcome.next (u.setDraw true).advance) ((s.setV VF 0).drawSprite_setST v _ _ _)
  | ldVxK x =>
    cases scan : s.scanKeys with
    | none =>
      obtain rfl := Host.Outcome.next.inj ((exec_ldVxK_of_none scan x).symm.trans h)
      exact exec_ldVxK_of_none (s := s.setST v) scan x
    | some k =>
      obtain rfl := Host.Outcome.next.inj ((exec_ldVxK_of_some scan x).symm.trans h)
      exact exec_ldVxK_of_some (s := s.setST v) scan x
  | ldB x =>
    obtain rfl := Host.Outcome.next.inj h
    exact congrArg (fun u : State => Host.Outcome.next u.advance) (s.writeBytes_setST v _ _)
  | ldMemVx x =>
    obtain rfl := Host.Outcome.next.inj h
    exact congrArg (fun u : State => Host.Outcome.next u.advance) (s.storeRegs_setST v x)
  | ldVxMem x =>
    obtain rfl := Host.Outcome.next.inj h
    exact congrArg (fun u : State => Host.Outcome.next u.advance) (s.loadRegs_setST v x)
  | _ =>
    obtain rfl := Host.Outcome.next.inj h
    rfl

/-- Settles O25: Fx18 overwrites the sound timer, and every other instruction commutes with a write of it. -/
theorem soundTimerIsNeverRead : Obligations.SoundTimerIsNeverRead := by
  intro i s t v h
  by_cases sound : ∃ x, i = .ldStVx x
  · rw [if_pos sound]
    obtain ⟨x, rfl⟩ := sound
    exact h
  · rw [if_neg sound]
    exact exec_setST v h sound

end Sys2Proof.Machine
end

section
/-! Proofs of the step (spec/30_encoding.md section 3, spec/60_exceptions.md): what it runs (R95), the halt (R231, R234), the
fetch above memory (R25), that it always answers, and the timer unit at its end (R242, R243). -/

namespace Sys2Proof.Machine

open Sys2Proof.Safety

/-! ### The step, case by case -/

theorem step_of_halted {s : State} (h : s.halted = true) : step s = .next s := by rw [step, h, if_pos rfl]

theorem step_of_undefined {s : State} (h : s.halted = false) (word : decode s.fetchWord = none) :
    step s = .next (s.afterFetch.raise (.unknownOpcode s.fetchWord)) := by
  rw [step, h, if_neg Bool.false_ne_true, word]

theorem step_of_decoded {s : State} {i : Instr} (h : s.halted = false) (word : decode s.fetchWord = some i) :
    step s = retireOutcome (exec i s.afterFetch) := by
  rw [step, h, if_neg Bool.false_ne_true, word]

theorem step_of_exec {s t : State} {i : Instr} (h : s.halted = false) (word : decode s.fetchWord = some i)
    (run : exec i s.afterFetch = .next t) : step s = .next t.retire := by
  rw [step_of_decoded h word, run, retireOutcome]

/-- Settles O10: the step looks at the halt latch first. -/
theorem haltedBlockIgnoresSteps : Obligations.HaltedBlockIgnoresSteps := fun _ h => step_of_halted h

/-! ### Fetch and decode -/

theorem decode_of_decodeBytes {hi lo : Byte} {i : Instr} (h : decodeBytes [hi, lo] = .ok (i, [])) :
    decode (wordOfBytes hi lo) = some i := by
  cases word : decode (wordOfBytes hi lo) with
  | none => simp [decodeBytes, decodeWord, word] at h
  | some j => simpa [decodeBytes, decodeWord, word] using h

/-- Settles O7: the two bytes at `pc` make the word the step fetches and decodes. -/
theorem stepRunsTheDecodedInstruction : Obligations.StepRunsTheDecodedInstruction := by
  intro s t i running bytes run
  rw [← s.afterFetch_eq] at run
  exact step_of_exec running (decode_of_decodeBytes bytes) run

theorem State.afterFetch_keepsAllBut (s : State) : KeepsAllBut [.diags] s s.afterFetch :=
  (s.noteDiagIf_keepsAllBut _).trans (State.noteDiagIf_keepsAllBut _ _)

theorem State.afterFetch_V (s : State) : s.afterFetch.V = s.V := by rw [s.afterFetch_eq]

/-- Settles O8: the word is the one fetched; the halt changes the latch and the record, the fetch the diagnostics. -/
theorem undefinedWordHaltsTheBlock : Obligations.UndefinedWordHaltsTheBlock := by
  intro s w running bytes word
  obtain rfl : s.fetchWord = w := BitVec.eq_of_toNat_eq (s.fetchWord_toNat.trans bytes.symm)
  have frame : KeepsAllBut [.halted, .fault, .diags] s (s.afterFetch.raise (.unknownOpcode s.fetchWord)) :=
    (s.afterFetch_keepsAllBut.mono (by decide)).trans ((State.raise_keepsAllBut _ _).mono (by decide))
  exact ⟨_, step_of_undefined running word, rfl, rfl, by rw [State.raise_pc, s.afterFetch_eq],
    by rw [State.raise_diags, s.afterFetch_eq], keepsRegs_of_V_eq s.afterFetch_V, frame⟩

/-- Above memory the fetch reads two zero bytes (R61). -/
theorem State.fetchWord_of_ge (s : State) (h : 0x1000 ≤ s.pc.toNat) : s.fetchWord = 0x0000 := by
  rw [fetchWord, s.readByte_of_ge h, s.readByte_of_ge (Nat.le_succ_of_le h)]; rfl

theorem decode_zero : decode 0x0000 = none := rfl

/-- A decoded word was fetched from within memory. -/
theorem State.pc_lt_of_decoded {s : State} {i : Instr} (word : decode s.fetchWord = some i) : s.pc.toNat < 0x1000 := by
  by_contra outside
  rw [s.fetchWord_of_ge (by omega), decode_zero] at word
  cases word

/-- Settles O9: both reads are out of range and the word they make is undefined. -/
theorem fetchAboveMemoryHalts : Obligations.FetchAboveMemoryHalts := by
  intro s running above
  have word := s.fetchWord_of_ge above
  have diags : s.afterFetch = { s with diags := s.diags + 2 } := by
    rw [State.afterFetch, s.noteRead_of_ge above, State.noteRead_of_ge _ (Nat.le_succ_of_le above)]; rfl
  rw [step_of_undefined running (word ▸ decode_zero), word, diags]; rfl

/-! ### Every step answers -/

/-- Only a shift where `SHIFT_USES_VY` is true does not answer a next state. -/
theorem exec_next_or_shift (i : Instr) (s : State) :
    (∃ t, exec i s = .next t) ∨
    (s.params.shiftUsesVy = true ∧ exec i s = .refused .shiftVariant ∧ ∃ x y, i = .shr x y ∨ i = .shl x y) := by
  cases i with
  | ret =>
    cases top : s.stack with
    | nil => exact .inl ⟨_, exec_ret_of_nil top⟩
    | cons a rest => exact .inl ⟨_, exec_ret_of_cons top⟩
  | call nnn =>
    cases full : s.stackFull with
    | false => exact .inl ⟨_, exec_call_of_room full nnn⟩
    | true => exact .inl ⟨_, exec_call_of_full full nnn⟩
  | ldVxK x =>
    cases scan : s.scanKeys with
    | none => exact .inl ⟨_, exec_ldVxK_of_none scan x⟩
    | some k => exact .inl ⟨_, exec_ldVxK_of_some scan x⟩
  | shr x y =>
    cases vy : s.params.shiftUsesVy with
    | false => exact .inl ⟨_, State.shiftOutcome_next.2 ⟨vy, rfl⟩⟩
    | true => exact .inr ⟨rfl, State.shiftOutcome_refused vy _, x, y, .inl rfl⟩
  | shl x y =>
    cases vy : s.params.shiftUsesVy with
    | false => exact .inl ⟨_, State.shiftOutcome_next.2 ⟨vy, rfl⟩⟩
    | true => exact .inr ⟨rfl, State.shiftOutcome_refused vy _, x, y, .inr rfl⟩
  | _ => exact .inl ⟨_, rfl⟩

/-- A step answers a next state, or the one refusal there is. -/
theorem step_next_or_shift (s : State) :
    (∃ t, step s = .next t) ∨
    (s.params.shiftUsesVy = true ∧ step s = .refused .shiftVariant ∧
      ∃ x y, decode s.fetchWord = some (.shr x y) ∨ decode s.fetchWord = some (.shl x y)) := by
  cases running : s.halted with
  | true => exact .inl ⟨s, step_of_halted running⟩
  | false =>
    cases word : decode s.fetchWord with
    | none => exact .inl ⟨_, step_of_undefined running word⟩
    | some i =>
      obtain ⟨t, run⟩ | ⟨vy, run, x, y, shift⟩ := exec_next_or_shift i s.afterFetch
      · exact .inl ⟨_, step_of_exec running word run⟩
      · refine .inr ⟨by rwa [s.afterFetch_eq] at vy, by rw [step_of_decoded running word, run, retireOutcome], x, y, ?_⟩
        exact shift.imp (congrArg some) (congrArg some)

/-- Settles O11: the one refusal needs `SHIFT_USES_VY` true. -/
theorem everyStepHasANextState : Obligations.EveryStepHasANextState := by
  intro s
  obtain next | ⟨vy, refused, shift⟩ := step_next_or_shift s
  · exact ⟨fun _ => next, fun _ => .inl next⟩
  · exact ⟨fun plain => absurd (plain.symm.trans vy) Bool.false_ne_true, fun _ => .inr ⟨refused, shift⟩⟩

/-! ### The end of a step -/

theorem State.retire_of_halted {t : State} (h : t.halted = true) : t.retire = t := by rw [retire, h, if_pos rfl]

theorem State.retire_of_running {t : State} (h : t.halted = false) : t.retire = t.dividerAdvance := by
  rw [retire, h, if_neg Bool.false_ne_true]

/-- After the fetch and an instruction the divider and the parameters are those of the step's start. -/
theorem exec_afterFetch_div {s t : State} {i : Instr} (run : exec i s.afterFetch = .next t) :
    t.div = s.div ∧ t.params = s.params := by
  rw [exec_div run, exec_params run, s.afterFetch_eq]; exact ⟨rfl, rfl⟩

theorem State.dividerAdvance_of_wrap {t : State} (h : t.div + 1 = t.params.timerDiv) :
    t.dividerAdvance = (t.setDiv 0).tick := by rw [dividerAdvance, if_pos h]

theorem State.dividerAdvance_of_count {t : State} (h : t.div + 1 ≠ t.params.timerDiv) :
    t.dividerAdvance = t.setDiv (t.div + 1) := by rw [dividerAdvance, if_neg h]

/-- A tick in one record update. -/
theorem State.tick_eq (s : State) :
    s.tick = { s with DT := countDown s.DT, ST := countDown s.ST, cues := if s.ST = 2 then s.cues + 1 else s.cues } := by
  have two : s.ST = 2 ↔ s.ST.toNat = 2 := BitVec.toNat_inj.symm
  rw [if_congr two rfl rfl, ← s.tick_cues, tick]
  generalize (decide (s.ST ≠ 0) && decide (countDown s.ST = 1)) = c
  cases c <;> rfl

/-- Settles O14: the two cases of the divider's advance. -/
theorem completedStepAdvancesTheDivider : Obligations.CompletedStepAdvancesTheDivider := by
  intro s t i running word run completed
  obtain ⟨div, params⟩ := exec_afterFetch_div run
  refine ⟨_, step_of_exec running word run, fun wraps => ?_, fun counts => ?_⟩
  · rw [State.retire_of_running completed, State.dividerAdvance_of_wrap (by rw [div, params, wraps]), State.tick_eq]
    rfl
  · rw [State.retire_of_running completed, State.dividerAdvance_of_count (by rwa [div, params]), div]
    rfl

/-! ### The divider along a run -/

/-- The divider's advance counts modulo `TIMER_DIV` (R242). -/
theorem State.dividerAdvance_div_mod {t : State} (range : t.div < t.params.timerDiv) :
    t.dividerAdvance.div = (t.div + 1) % t.params.timerDiv := by
  rw [dividerAdvance_div]
  split
  · rename_i wraps; rw [wraps, Nat.mod_self]
  · rw [Nat.mod_eq_of_lt (by omega)]

/-- A step that does not end halted began running and counted once. -/
theorem step_div_of_running {s t : State} (range : s.div < s.params.timerDiv) (h : step s = .next t)
    (running : t.halted = false) : t.div = (s.div + 1) % s.params.timerDiv ∧ t.params = s.params := by
  obtain ⟨halted, rfl⟩ | ⟨-, -, rfl⟩ | ⟨-, i, u, -, run, rfl⟩ := step_cases h
  · exact absurd (running.symm.trans halted) Bool.false_ne_true
  · cases running
  · obtain ⟨div, params⟩ := exec_afterFetch_div run
    rw [(State.retire_same u).halted] at running
    rw [State.retire_of_running running, State.dividerAdvance_div_mod (by rwa [div, params]), div, params,
      (State.dividerAdvance_same u).params, params]
    exact ⟨rfl, rfl⟩

theorem core_step : Host.Core.step Sys2Proof.core = step := rfl

/-- A run of `k + 1` steps is a step and a run of `k`. -/
theorem run_succ (k : Nat) {s t : State} (h : Host.Core.run Sys2Proof.core (k + 1) s = .next t) :
    ∃ u, step s = .next u ∧ Host.Core.run Sys2Proof.core k u = .next t := by
  cases first : step s with
  | next u => exact ⟨u, rfl, by simpa [Host.Core.run, core_step, first] using h⟩
  | fault r => cases r
  | refused r => simp [Host.Core.run, core_step, first] at h

/-- A halted block stays as it is. -/
theorem run_of_halted {s : State} (h : s.halted = true) (k : Nat) : Host.Core.run Sys2Proof.core k s = .next s := by
  induction k with
  | zero => rfl
  | succ k ih => simpa [Host.Core.run, core_step, step_of_halted h] using ih

/-- Settles O15: by induction on the run; a run not halted at its end was halted at none of its steps, so each counted. -/
theorem dividerCountsEveryCompletedStep : Obligations.DividerCountsEveryCompletedStep := by
  intro k
  induction k with
  | zero =>
    intro s t range h _
    obtain rfl := Host.Outcome.next.inj h
    exact (Nat.mod_eq_of_lt range).symm
  | succ k ih =>
    intro s t range h running
    obtain ⟨u, first, rest⟩ := run_succ k h
    have notHalted : u.halted = false := by
      by_contra halted
      obtain rfl := Host.Outcome.next.inj ((run_of_halted (by simpa using halted) k).symm.trans rest)
      exact halted running
    obtain ⟨div, params⟩ := step_div_of_running range first notHalted
    have range' : u.div < u.params.timerDiv := by rw [div, params]; exact Nat.mod_lt _ (by omega)
    rw [ih u t range' rest running, div, params, Nat.mod_add_mod, Nat.add_assoc, Nat.add_comm 1 k]

/-! ### The cue, the draw flag and the keys -/

/-- Settles O17: only the tick cues, at a sound timer of 2. -/
theorem cueComesOnlyWithATick : Obligations.CueComesOnlyWithATick := by
  intro s t h
  obtain ⟨-, rfl⟩ | ⟨-, -, rfl⟩ | ⟨-, i, u, -, run, rfl⟩ := step_cases h
  · exact .inl rfl
  · exact .inl (by rw [State.raise_cues, s.afterFetch_eq])
  · obtain ⟨div, params⟩ := exec_afterFetch_div run
    have cues : u.cues = s.cues := by rw [exec_cues run, s.afterFetch_eq]
    cases halted : u.halted with
    | true => exact .inl (by rw [State.retire_of_halted halted, cues])
    | false =>
      rw [State.retire_of_running halted]
      by_cases wraps : u.div + 1 = u.params.timerDiv
      · rw [State.dividerAdvance_of_wrap wraps, State.tick_eq]
        by_cases two : u.ST = 2
        · refine .inr ⟨?_, rfl, ?_, by rw [← div, ← params, wraps]⟩
          · show (if u.ST = 2 then u.cues + 1 else u.cues) = s.cues + 1
            rw [if_pos two, cues]
          · show State.countDown u.ST = 1
            rw [two]; rfl
        · refine .inl ?_
          show (if u.ST = 2 then u.cues + 1 else u.cues) = s.cues
          rw [if_neg two, cues]
      · exact .inl (by rw [State.dividerAdvance_of_count wraps, State.setDiv_cues, cues])

/-- The two instructions that write the draw flag set it (R32). -/
theorem exec_draw {i : Instr} {s t : State} (h : exec i s = .next t) : t.draw = s.draw ∨ t.draw = true := by
  by_cases same : t.draw = s.draw
  · exact .inl same
  · obtain rfl | ⟨x, y, n, rfl⟩ := writes_display (.inl (mem_of_changed (exec_keepsAllBut h) same))
    · exact .inr (Host.Outcome.next.inj h ▸ rfl)
    · exact .inr (Host.Outcome.next.inj h ▸ rfl)

/-- Settles O24: an instruction writes the draw flag only to set it and no key, and the rest of the step writes neither. -/
theorem stepNeverClearsDrawOrMovesKeys : Obligations.StepNeverClearsDrawOrMovesKeys := by
  intro s t h
  have fetchDraw : s.afterFetch.draw = s.draw := s.afterFetch_keepsAllBut .draw (by decide)
  have fetchKey : s.afterFetch.key = s.key := s.afterFetch_keepsAllBut .key (by decide)
  obtain ⟨-, rfl⟩ | ⟨-, -, rfl⟩ | ⟨-, i, u, -, run, rfl⟩ := step_cases h
  · exact ⟨id, rfl⟩
  · exact ⟨fetchDraw.trans, fetchKey⟩
  · rw [(State.retire_same u).draw, (State.retire_same u).key, exec_key run]
    exact ⟨fun on => (exec_draw run).elim (fun e => e.trans (fetchDraw.trans on)) id, fetchKey⟩

/-! ### The parameters -/

theorem step_params {s t : State} (h : step s = .next t) : t.params = s.params := by
  obtain ⟨-, rfl⟩ | ⟨-, -, rfl⟩ | ⟨-, i, u, -, run, rfl⟩ := step_cases h
  · rfl
  · rw [State.raise_params, s.afterFetch_eq]
  · exact (State.retire_same u).params.trans (exec_afterFetch_div run).2

end Sys2Proof.Machine
end

section
/-! Facts about the host's events (spec/10_state.md R37, R39; spec/70_reset_and_hazards.md R273, R274): what a load leaves, and
a sequence of events taken one by one. -/

namespace Sys2Proof.Machine

/-- A load, of any size, writes memory only. -/
theorem loadProgram_same (s : State) (bytes : List Byte) : State.SameButMem s (s.loadProgram bytes) := by
  unfold State.loadProgram
  split
  · exact (s.writeBytes_same 0 _).trans (State.writeBytes_same _ Config.progBase bytes)
  · exact State.SameButMem.refl s

theorem loadProgram_wf (s : State) (hw : Memory.wf s.mem = true) (bytes : List Byte) :
    Memory.wf (s.loadProgram bytes).mem = true := by
  unfold State.loadProgram
  split
  · exact State.writeBytes_wf _ (s.writeBytes_wf hw 0 _) Config.progBase bytes
  · exact hw

theorem handleAll_cons {e : Event} {es : List Event} {s t : State} (h : handleAll (e :: es) s = .next t) :
    ∃ u, handle e s = .next u ∧ handleAll es u = .next t := by
  rw [handleAll] at h
  split at h
  · exact ⟨_, ‹_›, h⟩
  · cases h
  · cases h

end Sys2Proof.Machine
end

section
/-! Proofs of the invariant (spec/10_state.md sections 2 and 6, spec/40_control.md): it holds after reset, every instruction
executed from a word in memory keeps it, and so do the step and every event. -/

namespace Sys2Proof.Safety

open Sys2Proof.Machine Sys2Proof.Machine.State

/-- Settles O18: the reset values, with the default parameters. -/
theorem resetMeetsTheInvariant : Obligations.ResetMeetsTheInvariant where
  memCanonical := rfl
  pcBound := by decide
  stackBound _ h := nomatch h
  stackDepth _ h := nomatch h
  dividerRange := by decide
  haltLatch := rfl
  overflowOnlyFinite h := nomatch h

namespace Inv

variable {s : State} (inv : Inv s)
include inv

/-! ### The invariant over the state operations -/

/-- An update of the registers, the display, the timers, `I` and the counts, with memory kept canonical and `pc` and the divider
in range. -/
theorem of_same {t : State} (mem : Memory.wf t.mem = true) (pc : t.pc.toNat ≤ 0x1100) (div : t.div < t.params.timerDiv)
    (stack : t.stack = s.stack) (params : t.params = s.params) (halted : t.halted = s.halted) (fault : t.fault = s.fault) :
    Inv t where
  memCanonical := mem
  pcBound := pc
  stackBound := stack ▸ inv.stackBound
  stackDepth := stack ▸ params ▸ inv.stackDepth
  dividerRange := div
  haltLatch := halted ▸ fault ▸ inv.haltLatch
  overflowOnlyFinite := fault ▸ params ▸ inv.overflowOnlyFinite

theorem afterFetch : Inv s.afterFetch := by
  rw [afterFetch_eq]
  exact inv.of_same inv.memCanonical inv.pcBound inv.dividerRange rfl rfl rfl rfl

/-- A fatal condition sets the latch and the record together; an overflow needs a finite stack. -/
theorem raise (f : Fatal) (finite : f = .stackOverflow → s.params.stackDepth.isSome = true) : Inv (s.raise f) where
  memCanonical := inv.memCanonical
  pcBound := inv.pcBound
  stackBound := inv.stackBound
  stackDepth := inv.stackDepth
  dividerRange := inv.dividerRange
  haltLatch := rfl
  overflowOnlyFinite h := finite (Option.some.inj h)

/-- A return lands two past a stacked address, so at most at 0x1001. -/
theorem pop {a : Word} {rest : List Word} (top : s.stack = a :: rest) : Inv ((s.setStack rest).setPc (a + 2)) where
  memCanonical := inv.memCanonical
  pcBound := by
    have bound := inv.stackBound a (top ▸ List.mem_cons_self)
    show (a + 2).toNat ≤ 0x1100
    rw [BitVec.toNat_add, show (2 : Word).toNat = 2 from rfl]; omega
  stackBound b hb := inv.stackBound b (top ▸ List.mem_cons_of_mem a hb)
  stackDepth d hd := by
    have depth := inv.stackDepth d hd
    rw [top, List.length_cons] at depth
    exact Nat.le_of_succ_le depth
  dividerRange := inv.dividerRange
  haltLatch := inv.haltLatch
  overflowOnlyFinite := inv.overflowOnlyFinite

/-- A call in memory stacks an address in memory, where the stack has room. -/
theorem push (inMemory : s.pc.toNat < 0x1000) (room : s.stackFull = false) (nnn : Addr12) :
    Inv ((s.push s.pc).setPc (zextAddr nnn)) where
  memCanonical := inv.memCanonical
  pcBound := by
    show (zextAddr nnn).toNat ≤ 0x1100
    rw [zextAddr_toNat]; omega
  stackBound b hb := by
    obtain rfl | old := List.mem_cons.1 hb
    · omega
    · exact inv.stackBound b old
  stackDepth d hd := by
    by_contra full
    have : s.stackFull = true := s.stackFull_iff.2 ⟨d, hd, by
      rw [setPc_stack, push_stack, List.length_cons] at full; omega⟩
    exact absurd (room.symm.trans this) Bool.false_ne_true
  dividerRange := inv.dividerRange
  haltLatch := inv.haltLatch
  overflowOnlyFinite := inv.overflowOnlyFinite

/-- The end of a step keeps the divider below `TIMER_DIV`. -/
theorem retire : Inv s.retire := by
  have same := s.retire_same
  refine inv.of_same (same.mem ▸ inv.memCanonical) (same.pc ▸ inv.pcBound) ?_ same.stack same.params same.halted same.fault
  cases halted : s.halted with
  | true => rw [retire_of_halted halted]; exact inv.dividerRange
  | false =>
    have range := inv.dividerRange
    rw [retire_of_running halted, dividerAdvance_div_mod range, (dividerAdvance_same s).params]
    exact Nat.mod_lt _ (by omega)

end Inv

/-! ### The invariant over the instructions -/

/-- From a word in memory, no instruction but the call and the return takes `pc` past 0x1100 (R25). -/
theorem exec_pcBound {i : Instr} {s t : State} (inMemory : s.pc.toNat < 0x1000) (run : exec i s = .next t)
    (notReturn : i ≠ .ret) (notCall : ∀ nnn, i ≠ .call nnn) : t.pc.toNat ≤ 0x1100 := by
  obtain ⟨advances, skips, waits⟩ := programCounterLaw i s t run
  by_cases assigns : assignsPc i = true
  · cases i with
    | ret => exact absurd rfl notReturn
    | call nnn => exact absurd rfl (notCall nnn)
    | jp nnn =>
      obtain ⟨⟨u, jump, target, -⟩, -⟩ := jumpsLandOnTheirTargets nnn s
      obtain rfl := Host.Outcome.next.inj (jump.symm.trans run)
      omega
    | jpV0 nnn =>
      obtain ⟨-, u, jump, -, bound, -⟩ := jumpsLandOnTheirTargets nnn s
      exact Host.Outcome.next.inj (jump.symm.trans run) ▸ bound
    | ldVxK x =>
      obtain stays | moves := waits x rfl
      · rw [stays]; omega
      · omega
    | _ => cases assigns
  · rw [Bool.not_eq_true] at assigns
    cases skip : isSkip i with
    | true => obtain two | four := skips skip <;> omega
    | false =>
      have := advances assigns skip
      omega

/-- An instruction executed from a word in memory keeps the invariant. -/
theorem Inv.exec {i : Instr} {s t : State} (inv : Inv s) (inMemory : s.pc.toNat < 0x1000)
    (run : Machine.exec i s = .next t) : Inv t := by
  by_cases control : i = .ret ∨ ∃ nnn, i = .call nnn
  · obtain rfl | ⟨nnn, rfl⟩ := control
    · obtain ⟨-, rfl⟩ | ⟨a, rest, top, rfl⟩ := exec_ret_cases run
      · exact inv.raise _ nofun
      · exact inv.pop top
    · obtain ⟨room, rfl⟩ | ⟨full, rfl⟩ := exec_call_cases run
      · exact inv.push inMemory room nnn
      · obtain ⟨d, finite, -⟩ := s.stackFull_iff.1 full
        exact inv.raise _ (fun _ => finite ▸ rfl)
  · have frame := exec_keepsAllBut run
    have pc := exec_pcBound inMemory run (fun e => control (.inl e)) (fun nnn e => control (.inr ⟨nnn, e⟩))
    exact inv.of_same (exec_keeps_wf run inv.memCanonical) pc (exec_div run ▸ exec_params run ▸ inv.dividerRange)
      (frame .stack (fun h => control (writes_stack h))) (exec_params run)
      (frame .halted (fun h => control (writes_halted h))) (frame .fault (fun h => control (writes_fault h)))

/-- Settles O19: a decoded word was fetched from memory, so the instruction keeps the invariant, and so does the step's end. -/
theorem stepKeepsTheInvariant : Obligations.StepKeepsTheInvariant := by
  intro s t inv h
  obtain ⟨-, rfl⟩ | ⟨-, -, rfl⟩ | ⟨-, i, u, word, run, rfl⟩ := step_cases h
  · exact inv
  · exact inv.afterFetch.raise _ nofun
  · have inMemory : s.afterFetch.pc.toNat < 0x1000 := by rw [s.afterFetch_eq]; exact pc_lt_of_decoded word
    exact (inv.afterFetch.exec inMemory run).retire

/-! ### The invariant over the host's events -/

theorem Inv.of_sameButMem {s t : State} (inv : Inv s) (same : SameButMem s t) (mem : Memory.wf t.mem = true) : Inv t :=
  inv.of_same mem (same.pc ▸ inv.pcBound) (same.div ▸ same.params ▸ inv.dividerRange) same.stack same.params same.halted
    same.fault

/-- A block in range of its divider has a `TIMER_DIV` of at least 1, which is all the reset values need. -/
theorem Inv.resetBlock {s : State} (inv : Inv s) : Inv s.resetBlock where
  memCanonical := rfl
  pcBound := by show 0x200 ≤ 0x1100; decide
  stackBound _ h := nomatch h
  stackDepth _ _ := Nat.zero_le _
  dividerRange := Nat.zero_lt_of_lt inv.dividerRange
  haltLatch := rfl
  overflowOnlyFinite h := nomatch h

/-- Every event keeps the invariant and the parameters. -/
theorem handle_keeps_inv {e : Event} {s t : State} (inv : Inv s) (h : handle e s = .next t) :
    Inv t ∧ t.params = s.params := by
  cases e with
  | step => exact ⟨stepKeepsTheInvariant s t inv h, step_params h⟩
  | reset => exact Host.Outcome.next.inj h ▸ ⟨inv.resetBlock, rfl⟩
  | loadProgram bytes =>
    have same := loadProgram_same s bytes
    exact Host.Outcome.next.inj h ▸ ⟨inv.of_sameButMem same (loadProgram_wf s inv.memCanonical bytes), same.params⟩
  | setKey k pressed | clearDraw =>
    exact Host.Outcome.next.inj h ▸
      ⟨inv.of_same inv.memCanonical inv.pcBound inv.dividerRange rfl rfl rfl rfl, rfl⟩

/-- Settles O20: by induction on the events. -/
theorem eventsKeepTheInvariant : Obligations.EventsKeepTheInvariant := by
  intro es
  induction es with
  | nil => exact fun s t inv h => Host.Outcome.next.inj h ▸ ⟨inv, rfl⟩
  | cons e es ih =>
    intro s t inv h
    obtain ⟨u, first, rest⟩ := handleAll_cons h
    obtain ⟨inv', params⟩ := handle_keeps_inv inv first
    obtain ⟨inv'', params'⟩ := ih u t inv' rest
    exact ⟨inv'', params'.trans params⟩

end Sys2Proof.Safety
end

section
/-! Proofs of spec/70_reset_and_hazards.md and of the block's edge (spec/10_state.md R37): reset, loading, the first step, the
key and draw events, and the halted state (R234, R235). -/

namespace Sys2Proof.Machine

open Sys2Proof.Safety

/-! ### Reset -/

theorem handle_reset (s : State) : handle .reset s = .next s.resetBlock := rfl

namespace State

/-- After reset every byte of memory is 0x00 (R40). -/
theorem resetBlock_readByte (s : State) (a : Nat) : s.resetBlock.readByte a = 0x00 := by
  unfold readByte
  split <;> rfl

theorem resetBlock_getV (s : State) (k : Reg) : s.resetBlock.getV k = 0 := by
  show (Vector.replicate 16 (0 : Byte)).get k = 0
  rw [Vector.get_eq_getElem, Vector.getElem_replicate]

theorem resetBlock_key (s : State) (k : Reg) : s.resetBlock.key.get k = false := by
  show (Vector.replicate 16 false).get k = false
  rw [Vector.get_eq_getElem, Vector.getElem_replicate]

/-- The grid of reset is the cleared one. -/
theorem resetBlock_pixel (s : State) (px py : Nat) : s.resetBlock.pixel px py = false :=
  (pixel_congr (s := s.clearGrid) rfl px py).trans (s.pixel_clearGrid px py)

end State

/-- Settles O52: part by part, the reset values of R40; the counts and the parameters are carried over. -/
theorem resetGivesTheResetValues : Obligations.ResetGivesTheResetValues := fun s =>
  ⟨_, handle_reset s, rfl, s.resetBlock_readByte, s.resetBlock_getV, rfl, rfl, rfl, rfl, s.resetBlock_key, rfl,
    s.resetBlock_pixel, rfl, rfl, rfl, rfl, rfl, rfl, rfl⟩

/-! ### Fetching inside memory -/

/-- A fetch from inside memory fires no diagnostic. -/
theorem State.afterFetch_of_lt (s : State) (h : s.pc.toNat + 1 < 4096) : s.afterFetch = s := by
  rw [afterFetch, s.noteRead_of_lt (by omega), s.noteRead_of_lt h]

theorem handleAll_step (s : State) : handleAll [.step] s = step s := by
  rw [handleAll, show handle .step s = step s from rfl]
  cases step s <;> rfl

/-- Settles O56: reset memory reads 0x00 at 0x200 and 0x201, and 0x0000 is undefined. -/
theorem stepWithoutLoadHalts : Obligations.StepWithoutLoadHalts := by
  intro s
  have word : s.resetBlock.fetchWord = 0x0000 := by
    rw [State.fetchWord, s.resetBlock_readByte, s.resetBlock_readByte]; rfl
  have quiet : s.resetBlock.afterFetch = s.resetBlock := s.resetBlock.afterFetch_of_lt (show 0x200 + 1 < 4096 by decide)
  show handleAll [.step] s.resetBlock = _
  rw [handleAll_step, step_of_undefined rfl (word ▸ decode_zero), word, quiet]; rfl

/-! ### Loading -/

theorem imageWellFormed_of_le {bytes : List Byte} (fits : bytes.length ≤ 3584) : imageWellFormed bytes = true :=
  decide_eq_true fits

theorem loadResult_of_accepted {bytes : List Byte} (accepted : imageWellFormed bytes = true) : loadResult bytes = .ok := by
  rw [loadResult, accepted, if_pos rfl]

theorem State.loadProgram_of_accepted (s : State) {bytes : List Byte} (accepted : imageWellFormed bytes = true) :
    s.loadProgram bytes = (s.writeBytes 0 (Config.glyphTable s.params)).writeBytes 0x200 bytes := by
  rw [loadProgram, accepted, if_pos rfl]; rfl

theorem glyphTable_length (p : Config.Params) : (Config.glyphTable p).length = 80 := by
  rw [Config.glyphTable, List.length_append, Vector.length_toList]; rfl

section Loaded

variable (s : State) (hw : Memory.wf s.mem = true) {bytes : List Byte} (fits : bytes.length ≤ 3584)
include hw fits

/-- Byte `k` of the image stands at `0x200 + k` (R273). -/
theorem loadProgram_image {k : Nat} {b : Byte} (hk : bytes[k]? = some b) : (s.loadProgram bytes).readByte (0x200 + k) = b := by
  have lt : k < bytes.length := (List.getElem?_eq_some_iff.1 hk).1
  rw [s.loadProgram_of_accepted (imageWellFormed_of_le fits)]
  exact State.readByte_writeBytes_of_getElem? _ (s.writeBytes_wf hw 0 _) hk (by omega)

/-- Below the image and past it stands what the glyph table left. -/
theorem loadProgram_outside {a : Nat} (ha : a < 0x200 ∨ 0x200 + bytes.length ≤ a) :
    (s.loadProgram bytes).readByte a = (s.writeBytes 0 (Config.glyphTable s.params)).readByte a := by
  rw [s.loadProgram_of_accepted (imageWellFormed_of_le fits)]
  exact State.readByte_writeBytes_outside _ (s.writeBytes_wf hw 0 _) ha

/-- Glyph byte `k` stands at `k`, below the image (R273). -/
theorem loadProgram_glyph {k : Nat} {b : Byte} (hk : (Config.glyphTable s.params)[k]? = some b) :
    (s.loadProgram bytes).readByte k = b := by
  have lt : k < 80 := glyphTable_length s.params ▸ (List.getElem?_eq_some_iff.1 hk).1
  rw [loadProgram_outside s hw fits (by omega), ← Nat.zero_add k]
  exact s.readByte_writeBytes_of_getElem? hw hk (by omega)

end Loaded

theorem State.SameButMem.keepsAllBut_mem {s t : State} (h : SameButMem s t) (diags : t.diags = s.diags) :
    KeepsAllBut [.mem] s t := by
  intro p hp
  by_cases d : p = .diags
  · exact d ▸ diags
  · exact h.keepsAllBut p (by simp_all)

/-- A run of accesses inside memory fires no diagnostic. -/
theorem outOfRangeCount_of_le {a n : Nat} (h : a + n ≤ 4096) : outOfRangeCount a n = 0 := by
  rw [outOfRangeCount, List.length_eq_zero_iff, List.filter_eq_nil_iff]
  intro k hk
  have := List.mem_range.1 hk
  rw [decide_eq_true_eq]; omega

/-- Both runs of a load lie inside memory. -/
theorem loadProgram_diags (s : State) {bytes : List Byte} (fits : bytes.length ≤ 3584) :
    (s.loadProgram bytes).diags = s.diags := by
  rw [s.loadProgram_of_accepted (imageWellFormed_of_le fits), State.writeBytes_diags, State.writeBytes_diags,
    glyphTable_length, outOfRangeCount_of_le (by decide), outOfRangeCount_of_le (by omega)]; rfl

/-- Settles O53: the table and the image are two runs of bytes, apart from each other. -/
theorem loadStoresGlyphsAndImage : Obligations.LoadStoresGlyphsAndImage := by
  intro bytes s hw fits
  have same := loadProgram_same s bytes
  refine ⟨loadResult_of_accepted (imageWellFormed_of_le fits), _, rfl, fun k b => loadProgram_glyph s hw fits,
    fun k b => loadProgram_image s hw fits, glyphTable_length _, fun a glyphs image => ?_, same.pc, same.keepsRegs,
    same.keepsAllBut_mem (loadProgram_diags s fits)⟩
  rw [loadProgram_outside s hw fits image]
  exact s.readByte_writeBytes_outside hw (.inr (by rw [glyphTable_length]; omega))

/-! ### The first step after a load -/

/-- After reset and a load the word fetched is that of the image's first two bytes. -/
theorem fetchWord_of_loaded (s : State) (i : Instr) {rest : List Byte} (fits : (encodeBytes i ++ rest).length ≤ 3584) :
    (s.resetBlock.loadProgram (encodeBytes i ++ rest)).fetchWord = encode i := by
  have pc : (s.resetBlock.loadProgram (encodeBytes i ++ rest)).pc = 0x200 := (loadProgram_same _ _).pc
  have high := loadProgram_image s.resetBlock rfl fits (k := 0) (b := highByte (encode i)) rfl
  have low := loadProgram_image s.resetBlock rfl fits (k := 1) (b := lowByte (encode i)) rfl
  rw [State.fetchWord, pc]
  exact (congrArg₂ wordOfBytes high low).trans (wordOfBytes_high_low _)

/-- Settles O55: the first step fetches inside memory, decodes the encoded word and executes it. -/
theorem loadedProgramRunsFromItsFirstWord : Obligations.LoadedProgramRunsFromItsFirstWord := by
  intro i rest s t u fits loaded run
  have length : (encodeBytes i ++ rest).length ≤ 3584 := by
    rw [List.length_append]; exact Nat.add_le_add_left fits 2
  obtain rfl := Host.Outcome.next.inj loaded
  have same := loadProgram_same s.resetBlock (encodeBytes i ++ rest)
  have quiet := State.afterFetch_of_lt (s.resetBlock.loadProgram (encodeBytes i ++ rest))
    (by rw [same.pc]; show 0x200 + 1 < 4096; decide)
  show handleAll [.step] (s.resetBlock.loadProgram (encodeBytes i ++ rest)) = _
  rw [handleAll_step]
  exact step_of_exec same.halted (fetchWord_of_loaded s i length ▸ decode_encode i) (quiet.symm ▸ run)

/-! ### The key and draw events -/

theorem State.pressKey_keepsAllBut (s : State) (k : Reg) (b : Bool) : KeepsAllBut [.key] s (s.pressKey k b) := by
  intro p hp
  cases p with
  | key => exact absurd (List.mem_singleton_self _) hp
  | mem => exact State.readByte_congr (s.pressKey_mem k b)
  | _ => rfl

/-- Reading a key after one was set. -/
theorem State.pressKey_get (s : State) (k j : Reg) (b : Bool) :
    (s.pressKey k b).key.get j = if j = k then b else s.key.get j := by
  rw [pressKey_key, Vector.get_eq_getElem, Vector.getElem_set, Vector.get_eq_getElem]
  exact if_congr (Fin.ext_iff.symm.trans eq_comm) rfl rfl

/-- Settles O57: one key is set, or the draw flag cleared, in any state. -/
theorem keyAndDrawEvents : Obligations.KeyAndDrawEvents := fun k b s =>
  ⟨⟨_, rfl, (s.pressKey_get k k b).trans (if_pos rfl), fun j hj => (s.pressKey_get k j b).trans (if_neg hj),
    s.pressKey_pc k b, keepsRegs_of_V_eq (s.pressKey_V k b), s.pressKey_keepsAllBut k b⟩,
   ⟨_, rfl, rfl, s.setDraw_pc false, keepsRegs_of_V_eq (s.setDraw_V false), s.setDraw_keepsAllBut false⟩⟩

/-! ### The halted state -/

/-- What no event but reset changes in a halted block. -/
structure SameHalted (s t : State) : Prop where
  halted : t.halted = s.halted
  fault : t.fault = s.fault
  pc : t.pc = s.pc
  V : t.V = s.V
  stack : t.stack = s.stack
  grid : t.grid = s.grid
  DT : t.DT = s.DT
  ST : t.ST = s.ST
  div : t.div = s.div

theorem SameHalted.refl (s : State) : SameHalted s s := ⟨rfl, rfl, rfl, rfl, rfl, rfl, rfl, rfl, rfl⟩

theorem SameHalted.trans {s t u : State} (h : SameHalted s t) (g : SameHalted t u) : SameHalted s u :=
  ⟨g.halted.trans h.halted, g.fault.trans h.fault, g.pc.trans h.pc, g.V.trans h.V, g.stack.trans h.stack,
   g.grid.trans h.grid, g.DT.trans h.DT, g.ST.trans h.ST, g.div.trans h.div⟩

/-- A step of a halted block does nothing, a load writes memory, and the other two write the keys and the draw flag. -/
theorem handle_of_halted {e : Event} {s t : State} (halted : s.halted = true) (noReset : e ≠ .reset)
    (h : handle e s = .next t) : SameHalted s t := by
  cases e with
  | reset => exact absurd rfl noReset
  | step => exact Host.Outcome.next.inj ((step_of_halted halted).symm.trans h) ▸ SameHalted.refl s
  | loadProgram bytes =>
    have same := loadProgram_same s bytes
    exact Host.Outcome.next.inj h ▸
      ⟨same.halted, same.fault, same.pc, same.V, same.stack, same.grid, same.DT, same.ST, same.div⟩
  | setKey k pressed | clearDraw => exact Host.Outcome.next.inj h ▸ ⟨rfl, rfl, rfl, rfl, rfl, rfl, rfl, rfl, rfl⟩

theorem handleAll_of_halted {es : List Event} {s t : State} (halted : s.halted = true) (noReset : .reset ∉ es)
    (h : handleAll es s = .next t) : SameHalted s t := by
  induction es generalizing s with
  | nil => exact Host.Outcome.next.inj h ▸ SameHalted.refl s
  | cons e es ih =>
    obtain ⟨u, first, rest⟩ := handleAll_cons h
    have same := handle_of_halted halted (List.ne_of_not_mem_cons noReset).symm first
    exact same.trans (ih (same.halted.trans halted) (List.not_mem_of_not_mem_cons noReset) rest)

/-- Settles O59: event by event, the block stays halted with all of these unchanged. -/
theorem onlyResetLeavesTheHaltedState : Obligations.OnlyResetLeavesTheHaltedState := by
  intro es s t halted noReset h
  have same := handleAll_of_halted halted noReset h
  exact ⟨same.halted.trans halted, same.fault, same.pc, same.V, same.stack, same.grid, same.DT, same.ST, same.div⟩

end Sys2Proof.Machine
end
